-- ==== Sys2Proof/Word.lean ====
section
/-! DEFINITION. The two word types of the hardware (00_scope.md R11): the byte, the addressable unit of every buffer,
and the u32 of every register. -/

namespace Sys2Proof

/-- An unsigned integer 0..255 (R11), the unit of every buffer (20_memory.md R60). -/
abbrev Byte := BitVec 8

/-- A u32 (R11): the contents of a register (10_state.md R20), a command word, a chunk tag taken with BE32. -/
abbrev Word := BitVec 32

end Sys2Proof
end

