-- ==== Sys2Proof/Syntax.lean ====
section
/-! DEFINITION. The syntax: one constructor for each row of spec/opcode_table.json, and the three spaces of codes in which
the rows are decoded (30_encoding.md R112). -/

namespace Sys2Proof

/-- A code as the hardware meets it, with the space it is met in (30_encoding.md R112). -/
inductive Code where
  /-- CMD32: the word the host wrote to CMD (R90). -/
  | cmd (w : Word)
  /-- CTAG32: BE32 of the four tag bytes of a chunk (R97). -/
  | tag (w : Word)
  /-- FTAG8: the first byte of a raw row (R101). -/
  | filter (b : Byte)
deriving DecidableEq, Repr

/-- The rows of spec/opcode_table.json. A default row carries the code it was decoded from, which is the operand of the
error it raises (CMD_ILLEGAL, FILT_ILLEGAL) or the tag that is skipped (CHUNK_OTHER). -/
inductive Instr where
  /-- PARSE, 41_chunk_reader.md R151. -/
  | parse
  /-- RECON, 42_scanline_reconstructor.md R181. -/
  | recon
  /-- RESIZE, 43_resampler.md R211. -/
  | resize
  /-- PACK, 44_chunk_writer_crc.md R241. -/
  | pack
  /-- EMIT, 44_chunk_writer_crc.md R245. -/
  | emit
  /-- CRC, 44_chunk_writer_crc.md R250. -/
  | crc
  /-- CLRERR, 40_commands_control.md R135. -/
  | clrerr
  /-- RST, 40_commands_control.md R136. -/
  | rst
  /-- CMD_ILLEGAL: any other command word, 30_encoding.md R92. -/
  | cmdIllegal (w : Word)
  /-- IHDR, the header chunk, 41_chunk_reader.md R157. -/
  | ihdr
  /-- IDAT, a data chunk, 41_chunk_reader.md R159. -/
  | idat
  /-- IEND, the terminal chunk, 41_chunk_reader.md R160. -/
  | iend
  /-- CHUNK_OTHER: any other tag, 41_chunk_reader.md R161. -/
  | chunkOther (w : Word)
  /-- FILT_NONE, 42_scanline_reconstructor.md R184. -/
  | filtNone
  /-- FILT_SUB, 42_scanline_reconstructor.md R185. -/
  | filtSub
  /-- FILT_UP, 42_scanline_reconstructor.md R186. -/
  | filtUp
  /-- FILT_AVERAGE, 42_scanline_reconstructor.md R187. -/
  | filtAverage
  /-- FILT_PAETH, 42_scanline_reconstructor.md R188. -/
  | filtPaeth
  /-- FILT_ILLEGAL: tag bytes 5 to 255, 42_scanline_reconstructor.md R189. -/
  | filtIllegal (b : Byte)
deriving DecidableEq, Repr

end Sys2Proof
end

