-- ==== Sys2Proof/WellFormed.lean ====
section
/-! DEFINITION. Which terms of `Instr` stand for a row: a default row carries only a code that no other row of its space
matches (30_encoding.md R92, R97, R101, R112). -/

namespace Sys2Proof

/-- The eight command words of 30_encoding.md R90. -/
def definedCommandWords : List Word :=
  [0x00000001, 0x00000002, 0x00000003, 0x00000004, 0x00000005, 0x00000006, 0x0000000E, 0x0000000F]

/-- The three chunk tags of 30_encoding.md R97. -/
def definedChunkTags : List Word := [0x49484452, 0x49444154, 0x49454E44]

/-- The check of a term: only the three default rows can be ill-formed. -/
def Instr.wellFormed : Instr → Bool
  | .parse => true
  | .recon => true
  | .resize => true
  | .pack => true
  | .emit => true
  | .crc => true
  | .clrerr => true
  | .rst => true
  | .cmdIllegal w => !definedCommandWords.contains w
  | .ihdr => true
  | .idat => true
  | .iend => true
  | .chunkOther w => !definedChunkTags.contains w
  | .filtNone => true
  | .filtSub => true
  | .filtUp => true
  | .filtAverage => true
  | .filtPaeth => true
  | .filtIllegal b => decide (4 < b.toNat)

end Sys2Proof
end

