-- ==== Sys2Proof/Decode.lean ====
section
/-! DEFINITION. Decoding and encoding in the three spaces of codes (30_encoding.md R90 to R92, R97, R101, R112), and the
big-endian assembly of a 32-bit field (00_scope.md R12, 20_memory.md R70). Decoding is total: a code that no row lists is
the named default row of its space, never a neighbour. -/

namespace Sys2Proof

/-- `BE32` of four bytes, most significant first (00_scope.md R12). -/
def be32Of (b0 b1 b2 b3 : Byte) : Word := b0 ++ b1 ++ b2 ++ b3

/-- `be32(v)`: the four bytes of a word, most significant first (00_scope.md R12). -/
def be32 (v : Word) : List Byte :=
  [v.extractLsb' 24 8, v.extractLsb' 16 8, v.extractLsb' 8 8, v.extractLsb' 0 8]

/-- The tag `49 48 44 52` taken with BE32 (30_encoding.md R97). -/
def tagIHDR : Word := 0x49484452
/-- The tag `49 44 41 54` taken with BE32 (30_encoding.md R97). -/
def tagIDAT : Word := 0x49444154
/-- The tag `49 45 4E 44` taken with BE32 (30_encoding.md R97). -/
def tagIEND : Word := 0x49454E44

/-- CMD32 (30_encoding.md R90, R91): bits 31:8 must be 0, so the whole word is compared; every other word is illegal
(R92). -/
def decodeCmd (w : Word) : Instr :=
  if w = 0x00000001 then .parse
  else if w = 0x00000002 then .recon
  else if w = 0x00000003 then .resize
  else if w = 0x00000004 then .pack
  else if w = 0x00000005 then .emit
  else if w = 0x00000006 then .crc
  else if w = 0x0000000E then .clrerr
  else if w = 0x0000000F then .rst
  else .cmdIllegal w

/-- CTAG32 (30_encoding.md R97): all four tag bytes are compared; any other tag is an unknown chunk. -/
def decodeTag (w : Word) : Instr :=
  if w = tagIHDR then .ihdr
  else if w = tagIDAT then .idat
  else if w = tagIEND then .iend
  else .chunkOther w

/-- FTAG8 (30_encoding.md R101, R102): all 8 bits are compared; 5 to 255 are illegal. -/
def decodeFilter (b : Byte) : Instr :=
  if b = 0x00 then .filtNone
  else if b = 0x01 then .filtSub
  else if b = 0x02 then .filtUp
  else if b = 0x03 then .filtAverage
  else if b = 0x04 then .filtPaeth
  else .filtIllegal b

/-- The decoder: a code of one of the three spaces to its row (30_encoding.md R112). -/
def decode : Code → Instr
  | .cmd w => decodeCmd w
  | .tag w => decodeTag w
  | .filter b => decodeFilter b

/-- The encoder, written from the code tables of 30_encoding.md R90, R97 and R101. -/
def encode : Instr → Code
  | .parse => .cmd 0x00000001
  | .recon => .cmd 0x00000002
  | .resize => .cmd 0x00000003
  | .pack => .cmd 0x00000004
  | .emit => .cmd 0x00000005
  | .crc => .cmd 0x00000006
  | .clrerr => .cmd 0x0000000E
  | .rst => .cmd 0x0000000F
  | .cmdIllegal w => .cmd w
  | .ihdr => .tag 0x49484452
  | .idat => .tag 0x49444154
  | .iend => .tag 0x49454E44
  | .chunkOther w => .tag w
  | .filtNone => .filter 0x00
  | .filtSub => .filter 0x01
  | .filtUp => .filter 0x02
  | .filtAverage => .filter 0x03
  | .filtPaeth => .filter 0x04
  | .filtIllegal b => .filter b

/-- Which space a number of `nbits` bits is a code of, as spec/opcode_table.json numbers its rows: 8 bits are a filter tag;
32 bits are a chunk tag when they are one of the three tags and a command word otherwise. The table's two 32-bit spaces
overlap and the number alone does not say which is meant (DESIGN CHOICE, log 9; the machine itself always knows the space). -/
def codeOfTableWord (nbits w : Nat) : Option Code :=
  if nbits = 8 then
    if w < 2 ^ 8 then some (.filter (BitVec.ofNat 8 w)) else none
  else if nbits = 32 then
    if w < 2 ^ 32 then
      if definedChunkTags.contains (BitVec.ofNat 32 w) then some (.tag (BitVec.ofNat 32 w))
      else some (.cmd (BitVec.ofNat 32 w))
    else none
  else none

/-- The instruction the decoder reads from a code numbered as spec/opcode_table.json numbers its rows. -/
def decodeTableWord (nbits w : Nat) : Option Instr := (codeOfTableWord nbits w).map decode

end Sys2Proof
end

