-- ==== Sys2Proof/Config.lean ====
section
/-! DEFINITION. What an implementation fixes (00_scope.md R6) and the free values: what the spec leaves unspecified and the
machine goes on with (93_implementation_defined.md U1, U2). -/

namespace Sys2Proof

/-- `ROUND_TIE` (00_scope.md R6): how RESIZE rounds a value exactly halfway between two integers. -/
inductive RoundTie where
  | halfUp
  | halfEven
deriving DecidableEq, Repr, Inhabited

/-- The implementation's parameters (00_scope.md R6). Every capacity is at most 2^32 − 1, which its type says. -/
structure Config where
  /-- `FBUF_CAP`, bytes in FBUF. -/
  fbufCap : Word
  /-- `ZBUF_CAP`, bytes in ZBUF. -/
  zbufCap : Word
  /-- `RBUF_CAP`, bytes in RBUF. -/
  rbufCap : Word
  /-- `GRID_CAP`, bytes in each of GSRC and GDST. -/
  gridCap : Word
  /-- `ROUND_TIE`, left open by the spec (92_eei_decisions.md D20). -/
  roundTie : RoundTie
deriving DecidableEq, Repr, Inhabited

/-- The parameters of the block at hand: the spec gives none, so none is known (log 1). -/
opaque Config.installed : Config

/-- FREE VALUE (log 3, 4): the byte at an offset of a buffer that nothing has written since the buffer's contents became
unspecified. First argument: the seed drawn then; second: the offset. -/
opaque Config.freeByte : Nat → Nat → Byte

/-- FREE VALUE (log 4): an output register after its command raised an error. First argument: the value of State's counter
at that error; second: which of the command's registers. -/
opaque Config.freeWord : Nat → Nat → Word

end Sys2Proof
end

