-- ==== Sys2Proof/Machine/State.lean ====
section
/-! DEFINITION. The state of the block as plain data (10_state.md), the host's pending actions (00_scope.md R7), the reasons
a step can stop, and the state after reset (10_state.md R50). -/

namespace Sys2Proof.Machine

/-- The written bytes of one buffer: addresses strictly rising, every listed address holding the byte last written to it.
An unlisted address has no value here: nothing has written it since the buffer's contents became unspecified
(93_implementation_defined.md U1). -/
abbrev Memory := List Host.Cell

/-- One of the five buffer memories (10_state.md R45). `cells` are its written bytes; `seed` says which family of free
values its other bytes are (U1, U2; log 3). -/
structure Buffer where
  cells : Memory
  seed : Nat
deriving DecidableEq, Repr

/-- The five buffers (20_memory.md R60). -/
inductive BufId where
  | fbuf | zbuf | rbuf | gsrc | gdst
deriving DecidableEq, Repr

/-- The names of the 24 registers (10_state.md R21), in the order of their offsets. -/
inductive Reg where
  | cmd | status | errCode | errPos | errInfo | flen | zlen | rlen
  | hdrWidth | hdrHeight | hdrBitDepth | hdrColor | hdrComp | hdrFilter | hdrInterlace
  | sw | sh | tw | th | dw | dh | coff | clen | crcVal
deriving DecidableEq, Repr

/-- The 22 registers that hold a 32-bit value (10_state.md R21): all but CMD, which holds none (R22), and STATUS, whose
flags are `Status`. -/
structure Regs where
  /-- 0x08 ERRCODE, cause of the recorded error (R25). -/
  errCode : Word
  /-- 0x0C ERRPOS, position of the recorded error (R25). -/
  errPos : Word
  /-- 0x10 ERRINFO, detail of the recorded error (R25). -/
  errInfo : Word
  /-- 0x14 FLEN, valid bytes in FBUF (R26). -/
  flen : Word
  /-- 0x18 ZLEN, valid bytes in ZBUF (R26). -/
  zlen : Word
  /-- 0x1C RLEN, valid bytes in RBUF (R26). -/
  rlen : Word
  /-- 0x20 HDR_WIDTH (R27). -/
  hdrWidth : Word
  /-- 0x24 HDR_HEIGHT (R27). -/
  hdrHeight : Word
  /-- 0x28 HDR_BITDEPTH, bits 7:0 (R27). -/
  hdrBitDepth : Word
  /-- 0x2C HDR_COLOR, bits 7:0 (R27). -/
  hdrColor : Word
  /-- 0x30 HDR_COMP, bits 7:0 (R27). -/
  hdrComp : Word
  /-- 0x34 HDR_FILTER, bits 7:0 (R27). -/
  hdrFilter : Word
  /-- 0x38 HDR_INTERLACE, bits 7:0 (R27). -/
  hdrInterlace : Word
  /-- 0x3C SW, width of the grid in GSRC (R28). -/
  sw : Word
  /-- 0x40 SH, height of the grid in GSRC (R28). -/
  sh : Word
  /-- 0x44 TW, target width for RESIZE (R29). -/
  tw : Word
  /-- 0x48 TH, target height for RESIZE (R29). -/
  th : Word
  /-- 0x4C DW, width of the grid in GDST (R28). -/
  dw : Word
  /-- 0x50 DH, height of the grid in GDST (R28). -/
  dh : Word
  /-- 0x54 COFF, first byte offset for CRC (R30). -/
  coff : Word
  /-- 0x58 CLEN, number of bytes for CRC (R30). -/
  clen : Word
  /-- 0x5C CRCVAL, result of CRC (R30). -/
  crcVal : Word
deriving DecidableEq, Repr

/-- The flags of STATUS (10_state.md R23). Its other bits are always 0, so they have no field; the word the host reads is
`Status.toWord`. -/
structure Status where
  /-- Bit 0. -/
  busy : Bool
  /-- Bit 1. -/
  done : Bool
  /-- Bit 2. -/
  err : Bool
  /-- Bit 3. -/
  hdrSeen : Bool
  /-- Bit 4. -/
  endSeen : Bool
deriving DecidableEq, Repr

/-- The sequencer with the cursors and the line buffer that exist between two of its fetches (10_state.md R40, R46;
log 12). -/
inductive Sequencer where
  /-- No command is under way. -/
  | idle
  /-- PARSE is walking: `pos`, the offset in FBUF of the next chunk, and `zlen`, the payload bytes collected so far. -/
  | parse (pos zlen : Nat)
  /-- RECON is running: `y`, the next row, and PREV, the row reconstructed last (all zero before row 0). -/
  | recon (y : Nat) (prev : List Byte)
deriving DecidableEq, Repr

/-- What reaches the block from outside (00_scope.md R7, 30_encoding.md R110, 70_reset_and_hazards.md R310). A register is
addressed by its 4-byte slot, slot k being offset 4·k (R20: registers are accessed whole). -/
inductive Input where
  /-- The host writes `v` to the register in a slot; slot 0 is CMD and starts a command. -/
  | writeReg (slot : Nat) (v : Word)
  /-- The host reads the register in a slot. -/
  | readReg (slot : Nat)
  /-- The host writes one byte of a buffer. -/
  | writeByte (b : BufId) (off : Nat) (v : Byte)
  /-- The host reads one byte of a buffer. -/
  | readByte (b : BufId) (off : Nat)
  /-- The reset input is driven. -/
  | reset
deriving DecidableEq, Repr

/-- Who raises an error: the six operation commands and the dispatcher (60_exceptions.md R280). What it leaves unspecified
depends on it (R286). -/
inductive Origin where
  | parse | recon | resize | pack | emit | crc | dispatcher
deriving DecidableEq, Repr

/-- The causes the block records (60_exceptions.md R280). Code 5 is never produced and has no cause here (U11). -/
inductive Cause where
  | signature | noHeader | headerUnsupported | filterTag | truncated | headerLength | capacity | param | illegalCmd
deriving DecidableEq, Repr

/-- The whole state: the implementation's parameters, the registers, the flags, the five buffers, the sequencer, the host's
pending actions, and the model's own two fields. -/
structure State where
  /-- The implementation's parameters (00_scope.md R6); no step changes them. -/
  cfg : Config
  /-- The registers that hold a value (10_state.md R21). -/
  regs : Regs
  /-- STATUS (10_state.md R23). -/
  status : Status
  /-- FBUF, the file buffer (20_memory.md R61). -/
  fbuf : Buffer
  /-- ZBUF, the compressed-stream buffer (20_memory.md R62). -/
  zbuf : Buffer
  /-- RBUF, the raw scanline stream buffer (20_memory.md R63). -/
  rbuf : Buffer
  /-- GSRC, the source grid buffer (20_memory.md R64). -/
  gsrc : Buffer
  /-- GDST, the destination grid buffer (20_memory.md R65). -/
  gdst : Buffer
  /-- The sequencer and its cursors (10_state.md R40). -/
  seq : Sequencer
  /-- What the outside has in store, in order (10_state.md R40: the host's own program order). -/
  inputs : List Input
  /-- The model's own: the value the last host read returned (log 18). -/
  rdata : Word
  /-- The model's own: the next free value to draw (log 3, 4, 18). -/
  fresh : Nat
deriving DecidableEq, Repr

/-- Why the machine stops with a fault. The errors of 60_exceptions.md are no faults: they are recorded, in a next state. -/
inductive Fault where
  /-- Raised by a host access to a buffer byte at or beyond the buffer's capacity, a byte that does not exist (20_memory.md
  R76, U9). Safe: the model stops where the spec gives no behaviour (log 7). -/
  | noSuchByte (b : BufId) (off : Nat)
deriving DecidableEq, Repr

/-- Why the machine refuses. -/
inductive Refusal where
  /-- An instruction that has no meaning in this model; no arm of `exec` answers it. Safe. -/
  | notModelled (mnemonic : String)
  /-- Raised by a host access or a CMD write while BUSY = 1, which the host must not make and whose effect is not specified
  (70_reset_and_hazards.md R320, U5). Safe: the model stops (log 8). -/
  | hostWhileBusy
  /-- Raised by a chunk action where PARSE is not walking: a tag is decoded nowhere else (30_encoding.md R97). Safe: the
  hardware has no such situation (log 8). -/
  | noChunkUnderWay
  /-- Raised by a filter where RECON is not running: a filter tag is decoded nowhere else (30_encoding.md R101). Safe: the
  hardware has no such situation (log 8). -/
  | noRowUnderWay
deriving DecidableEq, Repr

/-- Every register reads 0 (10_state.md R50). -/
def Regs.zero : Regs :=
  { errCode := 0, errPos := 0, errInfo := 0, flen := 0, zlen := 0, rlen := 0, hdrWidth := 0, hdrHeight := 0,
    hdrBitDepth := 0, hdrColor := 0, hdrComp := 0, hdrFilter := 0, hdrInterlace := 0, sw := 0, sh := 0, tw := 0,
    th := 0, dw := 0, dh := 0, coff := 0, clen := 0, crcVal := 0 }

/-- STATUS = 0 (10_state.md R50). -/
def Status.zero : Status := { busy := false, done := false, err := false, hdrSeen := false, endSeen := false }

/-- The machine right after hardware reset (10_state.md R50, 70_reset_and_hazards.md R310): every register 0, the block
idle, the buffers unspecified. The seeds, the counter, `rdata` and the empty input list are the model's own (log 6, 18). -/
def State.reset : State :=
  { cfg := Config.installed
    regs := Regs.zero
    status := Status.zero
    fbuf := { cells := [], seed := 0 }
    zbuf := { cells := [], seed := 1 }
    rbuf := { cells := [], seed := 2 }
    gsrc := { cells := [], seed := 3 }
    gdst := { cells := [], seed := 4 }
    seq := .idle
    inputs := []
    rdata := 0
    fresh := 5 }

end Sys2Proof.Machine
end

