-- ==== Sys2Proof/Machine/Ops.lean ====
section
/-! DEFINITION. The named operations over buffers and registers, error entry and the return from it, the acceptance and the
completion of a command, and reset. Every meaning is written over these. -/

namespace Sys2Proof.Machine

/-! ### One buffer -/

/-- The byte last written to an address, or none where nothing has written it. -/
def Memory.read : Memory → Nat → Option Byte
  | [], _ => none
  | (b, v) :: m, a => if a = b then some v else Memory.read m a

/-- Write one byte, keeping the addresses strictly rising. -/
def Memory.write : Memory → Nat → Byte → Memory
  | [], a, v => [(a, v)]
  | (b, w) :: m, a, v =>
    if a < b then (a, v) :: (b, w) :: m
    else if a = b then (a, v) :: m
    else (b, w) :: Memory.write m a v

/-- The canonical form: addresses strictly rising. (An unlisted address has no value, so no entry can equal it.) -/
def Memory.wf : Memory → Bool
  | [] => true
  | [_] => true
  | (a, _) :: (b, v) :: m => decide (a < b) && Memory.wf ((b, v) :: m)

/-- Every listed address lies below a bound (20_memory.md R60: offsets 0 to capacity − 1). -/
def Memory.below (m : Memory) (bound : Nat) : Bool := m.all fun cell => decide (cell.1 < bound)

/-- `BUF[a]` (00_scope.md R12): the byte last written there; a free value where nothing has (U1). Reading changes nothing
(20_memory.md R74). -/
def Buffer.read (b : Buffer) (a : Nat) : Byte := (Memory.read b.cells a).getD (Config.freeByte b.seed a)

/-- Whether something has written the byte at an offset since the buffer's contents became unspecified
(70_reset_and_hazards.md R312). -/
def Buffer.written (b : Buffer) (a : Nat) : Bool := (Memory.read b.cells a).isSome

/-- Write one byte; no other byte changes. -/
def Buffer.write (b : Buffer) (a : Nat) (v : Byte) : Buffer := { b with cells := Memory.write b.cells a v }

/-- `MemRead(BUF, a, n)` (00_scope.md R12). -/
def Buffer.readBytes (b : Buffer) (a n : Nat) : List Byte := (List.range n).map fun i => b.read (a + i)

/-- `MemWrite(BUF, a, n, s)`, n being the length of s (00_scope.md R12). -/
def Buffer.writeBytes (b : Buffer) (a : Nat) : List Byte → Buffer
  | [] => b
  | v :: vs => Buffer.writeBytes (b.write a v) (a + 1) vs

/-- `BE32(MemRead(BUF, a, 4))` (00_scope.md R12, 20_memory.md R72). -/
def Buffer.readBE32 (b : Buffer) (a : Nat) : Word := be32Of (b.read a) (b.read (a + 1)) (b.read (a + 2)) (b.read (a + 3))

/-- A buffer whose whole contents are unspecified (U1, U2): nothing is listed, and the bytes are the free values of a
seed. -/
def Buffer.unspecified (seed : Nat) : Buffer := { cells := [], seed := seed }

/-! ### The five buffers of a state -/

/-- The buffer of a name (20_memory.md R60). -/
def State.buf (s : State) : BufId → Buffer
  | .fbuf => s.fbuf
  | .zbuf => s.zbuf
  | .rbuf => s.rbuf
  | .gsrc => s.gsrc
  | .gdst => s.gdst

/-- Replace the buffer of a name; the spaces are disjoint (20_memory.md R60). -/
def State.setBuf (s : State) (id : BufId) (b : Buffer) : State :=
  match id with
  | .fbuf => { s with fbuf := b }
  | .zbuf => { s with zbuf := b }
  | .rbuf => { s with rbuf := b }
  | .gsrc => { s with gsrc := b }
  | .gdst => { s with gdst := b }

/-- The capacity of a buffer in bytes (00_scope.md R6). -/
def capacityOf (c : Config) : BufId → Nat
  | .fbuf => c.fbufCap.toNat
  | .zbuf => c.zbufCap.toNat
  | .rbuf => c.rbufCap.toNat
  | .gsrc => c.gridCap.toNat
  | .gdst => c.gridCap.toNat

/-! ### Error entry and return -/

/-- The cause codes (60_exceptions.md R280). -/
def Cause.code : Cause → Word
  | .signature => 1
  | .noHeader => 2
  | .headerUnsupported => 3
  | .filterTag => 4
  | .truncated => 6
  | .headerLength => 7
  | .capacity => 8
  | .param => 9
  | .illegalCmd => 10

/-- A byte-wide HDR register with an unspecified value: bits 31:8 still read 0 (10_state.md R21, U8; log 5). -/
def freeByteReg (draw index : Nat) : Word := ((Config.freeWord draw index).setWidth 8).setWidth 32

/-- Make the outputs of the command that raised unspecified: its output buffer over the whole capacity and its output
registers (60_exceptions.md R286, 20_memory.md R66). Each is a free value of a fresh draw (U2; log 4). -/
def unspecifyOutputs (o : Origin) (s : State) : State :=
  match o with
  | .parse =>
    { s with
      zbuf := Buffer.unspecified s.fresh
      regs :=
        { s.regs with
          zlen := Config.freeWord s.fresh 0
          hdrWidth := Config.freeWord s.fresh 1
          hdrHeight := Config.freeWord s.fresh 2
          hdrBitDepth := freeByteReg s.fresh 3
          hdrColor := freeByteReg s.fresh 4
          hdrComp := freeByteReg s.fresh 5
          hdrFilter := freeByteReg s.fresh 6
          hdrInterlace := freeByteReg s.fresh 7 }
      fresh := s.fresh + 1 }
  | .recon =>
    { s with
      gsrc := Buffer.unspecified s.fresh
      regs := { s.regs with sw := Config.freeWord s.fresh 0, sh := Config.freeWord s.fresh 1 }
      fresh := s.fresh + 1 }
  | .resize =>
    { s with
      gdst := Buffer.unspecified s.fresh
      regs := { s.regs with dw := Config.freeWord s.fresh 0, dh := Config.freeWord s.fresh 1 }
      fresh := s.fresh + 1 }
  | .pack =>
    { s with
      rbuf := Buffer.unspecified s.fresh
      regs := { s.regs with rlen := Config.freeWord s.fresh 0 }
      fresh := s.fresh + 1 }
  | .emit =>
    { s with
      fbuf := Buffer.unspecified s.fresh
      regs := { s.regs with flen := Config.freeWord s.fresh 0 }
      fresh := s.fresh + 1 }
  | .crc =>
    { s with
      regs := { s.regs with crcVal := Config.freeWord s.fresh 0 }
      fresh := s.fresh + 1 }
  | .dispatcher => s

/-- The flags after error entry (60_exceptions.md R285): ERR set, BUSY and DONE cleared, and for PARSE also HDR_SEEN and
END_SEEN. -/
def Status.afterError (o : Origin) (st : Status) : Status :=
  { busy := false
    done := false
    err := true
    hdrSeen := if o = .parse then false else st.hdrSeen
    endSeen := if o = .parse then false else st.endSeen }

/-- Error entry, `raise E(pos, info)` (60_exceptions.md R285, R286): the command ends, its outputs are unspecified, and the
error is recorded. Nothing is saved and nothing is vectored. -/
def raiseError (o : Origin) (e : Cause) (pos info : Nat) (s : State) : State :=
  let u := unspecifyOutputs o s
  { u with
    seq := .idle
    status := Status.afterError o s.status
    regs :=
      { u.regs with
        errCode := e.code
        errPos := BitVec.ofNat 32 pos
        errInfo := BitVec.ofNat 32 info } }

/-- The return from an error (40_commands_control.md R135, 60_exceptions.md R289): nothing is restored, because error entry
saved nothing. -/
def clearError (s : State) : State :=
  { s with
    status := { s.status with err := false, done := true }
    regs := { s.regs with errCode := 0, errPos := 0, errInfo := 0 } }

/-! ### Acceptance and completion -/

/-- Normal completion (40_commands_control.md R130, R132): BUSY cleared, DONE set, the sequencer idle. -/
def complete (s : State) : State :=
  { s with seq := .idle, status := { s.status with busy := false, done := true } }

/-- Acceptance of an operation command (40_commands_control.md R130): DONE cleared, BUSY set. -/
def acceptCommand (s : State) : State := { s with status := { s.status with done := false, busy := true } }

/-- The dispatch of every command but CLRERR and RST (40_commands_control.md R130, R134): a CMD write while BUSY is the
hazard of R320; while an error is recorded nothing changes; otherwise `run` is what the word does. -/
def dispatch (run : State → State) (s : State) : Host.Outcome State Fault Refusal :=
  if s.status.busy then .refused .hostWhileBusy
  else if s.status.err then .next s
  else .next (run s)

/-- The dispatch of an operation command: it is accepted, then its rule runs to completion in one step (00_scope.md R8). -/
def operation (body : State → State) (s : State) : Host.Outcome State Fault Refusal :=
  dispatch (fun u => body (acceptCommand u)) s

/-- The dispatch of CLRERR and RST, accepted with or without a recorded error (40_commands_control.md R130). -/
def control (body : State → State) (s : State) : Host.Outcome State Fault Refusal :=
  if s.status.busy then .refused .hostWhileBusy else .next (body s)

/-! ### Reset -/

/-- The register part of both resets (10_state.md R50): every register of R21 becomes 0 and the block is idle. -/
def resetRegisters (s : State) : State := { s with regs := Regs.zero, status := Status.zero, seq := .idle }

/-- Hardware reset (70_reset_and_hazards.md R310, R311): registers 0, any command abandoned, the bytes of all five buffers
unspecified (free values of fresh seeds). -/
def hardwareReset (s : State) : State :=
  { resetRegisters s with
    fbuf := Buffer.unspecified s.fresh
    zbuf := Buffer.unspecified (s.fresh + 1)
    rbuf := Buffer.unspecified (s.fresh + 2)
    gsrc := Buffer.unspecified (s.fresh + 3)
    gdst := Buffer.unspecified (s.fresh + 4)
    fresh := s.fresh + 5 }

end Sys2Proof.Machine
end

