-- ==== Sys2Proof/Machine/Flags.lean ====
section
/-! DEFINITION. STATUS as the host reads it, the flags PARSE owns, and the masks of failing conditions that two errors
report. The hardware has no condition codes (10_state.md R23). -/

namespace Sys2Proof.Machine

/-- STATUS as a word (10_state.md R23): bits 0 to 4 are the flags, bits 31:5 are 0. -/
def Status.toWord (st : Status) : Word :=
  BitVec.ofNat 32
    (st.busy.toNat + 2 * st.done.toNat + 4 * st.err.toNat + 8 * st.hdrSeen.toNat + 16 * st.endSeen.toNat)

/-- The start of PARSE's execute phase clears HDR_SEEN and END_SEEN (41_chunk_reader.md R151). -/
def clearSeen (s : State) : State := { s with status := { s.status with hdrSeen := false, endSeen := false } }

/-- HDR_SEEN is set when a header chunk has been accepted (41_chunk_reader.md R157). -/
def setHdrSeen (s : State) : State := { s with status := { s.status with hdrSeen := true } }

/-- END_SEEN is set when the terminal chunk is met (41_chunk_reader.md R160). -/
def setEndSeen (s : State) : State := { s with status := { s.status with endSeen := true } }

/-- `bit` where a condition fails, else 0. -/
def failBit (failing : Bool) (bit : Nat) : Nat := if failing then bit else 0

/-- The header check's mask m (41_chunk_reader.md R158): bit 0 bit depth, 1 colour model, 2 compression, 3 filter method, 4
interlace; every failing field's bit is set. -/
def headerMask (depth color comp filter interlace : Byte) : Nat :=
  failBit (depth != 8) 1 + failBit (color != 6) 2 + failBit (comp != 0) 4 + failBit (filter != 0) 8
    + failBit (interlace != 0) 16

/-- RESIZE's mask m (43_resampler.md R211, R213): bit 0 SW, 1 SH, 2 TW, 3 TH is zero. -/
def zeroMask (sw sh tw th : Nat) : Nat :=
  failBit (sw == 0) 1 + failBit (sh == 0) 2 + failBit (tw == 0) 4 + failBit (th == 0) 8

end Sys2Proof.Machine
end

