-- ==== Sys2Proof/Machine/Operands.lean ====
section
/-! DEFINITION. The operand forms: the fields of a chunk (30_encoding.md R96, R98), the rows of a raw stream (R100), the
pixels of a grid (00_scope.md R13), and the neighbours a filter reads (42_scanline_reconstructor.md R182). -/

namespace Sys2Proof.Machine

/-! ### A chunk at offset `pos` of FBUF (30_encoding.md R96) -/

/-- L, the length field: BE32 of the four bytes at the chunk's start. -/
def chunkLength (s : State) (pos : Nat) : Nat := (s.fbuf.readBE32 pos).toNat

/-- The tag taken with BE32 (R97, R112). -/
def chunkTag (s : State) (pos : Nat) : Word := s.fbuf.readBE32 (pos + 4)

/-- The payload byte at offset k of the payload. -/
def payloadByte (s : State) (pos k : Nat) : Byte := s.fbuf.read (pos + 8 + k)

/-- BE32 of the payload bytes k to k + 3. -/
def payloadBE32 (s : State) (pos k : Nat) : Word := s.fbuf.readBE32 (pos + 8 + k)

/-- The whole payload, L bytes. -/
def payload (s : State) (pos : Nat) : List Byte := s.fbuf.readBytes (pos + 8) (chunkLength s pos)

/-- The offset just past the chunk: 12 + L further (R105). -/
def nextChunk (s : State) (pos : Nat) : Nat := pos + 12 + chunkLength s pos

/-! ### A row of the raw stream, and a row of a grid (30_encoding.md R100, 00_scope.md R5, R13) -/

/-- ByteStride: the bytes of a grid row W pixels wide. -/
def stride (w : Nat) : Nat := 4 * w

/-- The length of a raw stream of H rows: H·(1 + 4·W). -/
def streamLength (w h : Nat) : Nat := h * (1 + stride w)

/-- The offset of row y of a raw stream: its filter tag. -/
def rowBase (w y : Nat) : Nat := y * (1 + stride w)

/-- The offset of channel c of the pixel at column x, row y of a grid W pixels wide (R13). -/
def pixelOffset (w x y c : Nat) : Nat := (y * w + x) * 4 + c

/-! ### A filter's neighbours (42_scanline_reconstructor.md R182) -/

/-- The byte four places before offset i of a line buffer; 0 if there is no such place. -/
def fourBack (line : List Byte) (i : Nat) : Byte := if 4 ≤ i then line.getD (i - 4) 0 else 0

/-- left: the reconstructed byte 4 positions to the left in the current row. -/
def left (cur : List Byte) (i : Nat) : Byte := fourBack cur i

/-- up: the reconstructed byte at the same offset of the previous row. -/
def up (prev : List Byte) (i : Nat) : Byte := prev.getD i 0

/-- upper-left: the reconstructed byte 4 positions to the left in the previous row. -/
def upperLeft (prev : List Byte) (i : Nat) : Byte := fourBack prev i

end Sys2Proof.Machine
end

