-- ==== Sys2Proof/Machine/Chunk.lean ====
section
/-! DEFINITION. PARSE, the chunk reader, and the four chunk actions its walk selects by tag (41_chunk_reader.md). -/

namespace Sys2Proof.Machine

/-- The signature bytes (30_encoding.md R95). -/
def signatureBytes : List Byte := [0x89, 0x50, 0x4E, 0x47, 0x0D, 0x0A, 0x1A, 0x0A]

/-- What the walk finds at its cursor (41_chunk_reader.md R151). -/
inductive ChunkFetch where
  /-- `pos = FLEN`: the walk ends (R156). -/
  | atEnd
  /-- The buffer ends inside a chunk (R153). -/
  | truncated
  /-- A whole chunk with this tag (R154). -/
  | found (tag : Word)
deriving DecidableEq, Repr

/-- The fetch of the walk (41_chunk_reader.md R151, R153, R154): the comparisons are on unbounded naturals, and the
trailer's value is not examined (R155). -/
def fetchChunk (s : State) (pos : Nat) : ChunkFetch :=
  if pos = s.regs.flen.toNat then .atEnd
  else if s.regs.flen.toNat < pos + 8 then .truncated
  else if s.regs.flen.toNat < nextChunk s pos then .truncated
  else .found (chunkTag s pos)

/-- The end of the walk (41_chunk_reader.md R151, R162): E_NO_HEADER at the final cursor where no header was accepted, else
ZLEN is written and the command completes. -/
def finishWalk (pos zlen : Nat) (s : State) : State :=
  if s.status.hdrSeen then complete { s with regs := { s.regs with zlen := BitVec.ofNat 32 zlen } }
  else raiseError .parse .noHeader pos 0 s

/-- The seven HDR registers from the payload of the header chunk (41_chunk_reader.md R157, 30_encoding.md R98). -/
def loadHeader (pos : Nat) (s : State) : State :=
  { s with
    regs :=
      { s.regs with
        hdrWidth := payloadBE32 s pos 0
        hdrHeight := payloadBE32 s pos 4
        hdrBitDepth := (payloadByte s pos 8).setWidth 32
        hdrColor := (payloadByte s pos 9).setWidth 32
        hdrComp := (payloadByte s pos 10).setWidth 32
        hdrFilter := (payloadByte s pos 11).setWidth 32
        hdrInterlace := (payloadByte s pos 12).setWidth 32 } }

/-- The mask of failing header fields of the chunk at `pos` (41_chunk_reader.md R158). -/
def headerCheck (s : State) (pos : Nat) : Nat :=
  headerMask (payloadByte s pos 8) (payloadByte s pos 9) (payloadByte s pos 10) (payloadByte s pos 11)
    (payloadByte s pos 12)

/-- The header chunk's action and the cursor advance (41_chunk_reader.md R157, R158). -/
def ihdrChunk (pos zlen : Nat) (s : State) : State :=
  if chunkLength s pos ≠ 13 then raiseError .parse .headerLength pos (chunkLength s pos) s
  else if headerCheck s pos ≠ 0 then raiseError .parse .headerUnsupported pos (headerCheck s pos) (loadHeader pos s)
  else { setHdrSeen (loadHeader pos s) with seq := .parse (nextChunk s pos) zlen }

/-- A data chunk's action and the cursor advance (41_chunk_reader.md R159): the payload is appended to ZBUF. -/
def idatChunk (pos zlen : Nat) (s : State) : State :=
  if s.cfg.zbufCap.toNat < zlen + chunkLength s pos then raiseError .parse .capacity pos 0 s
  else
    { s with
      zbuf := s.zbuf.writeBytes zlen (payload s pos)
      seq := .parse (nextChunk s pos) (zlen + chunkLength s pos) }

/-- The terminal chunk's action (41_chunk_reader.md R160): END_SEEN, the cursor advance, and the end of the walk (R156). -/
def iendChunk (pos zlen : Nat) (s : State) : State := finishWalk (nextChunk s pos) zlen (setEndSeen s)

/-- Any other tag (41_chunk_reader.md R161): only the cursor moves. -/
def skipChunk (pos zlen : Nat) (s : State) : State := { s with seq := .parse (nextChunk s pos) zlen }

/-- The action a tag selects (41_chunk_reader.md R151). -/
def chunkAction (tag : Word) (pos zlen : Nat) (s : State) : State :=
  if tag = tagIHDR then ihdrChunk pos zlen s
  else if tag = tagIDAT then idatChunk pos zlen s
  else if tag = tagIEND then iendChunk pos zlen s
  else skipChunk pos zlen s

/-- One turn of the walk's loop (41_chunk_reader.md R151). -/
def walkStep (pos zlen : Nat) (s : State) : State :=
  match fetchChunk s pos with
  | .atEnd => finishWalk pos zlen s
  | .truncated => raiseError .parse .truncated pos 0 s
  | .found tag => chunkAction tag pos zlen s

/-- The walk, turn by turn until PARSE has ended. The bound is never reached from FLEN + 1 turns, since every chunk moves
the cursor by at least 12 (00_scope.md R8; log 19). -/
def walk : Nat → State → State
  | 0, s => s
  | n + 1, s =>
    match s.seq with
    | .parse pos zlen => walk n (walkStep pos zlen s)
    | .idle => s
    | .recon _ _ => s

/-- The signature test (41_chunk_reader.md R152). -/
def signatureOk (s : State) : Bool := decide (8 ≤ s.regs.flen.toNat) && (s.fbuf.readBytes 0 8 == signatureBytes)

/-- The state at the start of the walk (41_chunk_reader.md R151): the cursor after the signature, nothing collected. -/
def beginWalk (s : State) : State := { clearSeen s with seq := .parse 8 0 }

/-- PARSE's rule (41_chunk_reader.md R151). -/
def parseBody (s : State) : State :=
  if s.cfg.fbufCap.toNat < s.regs.flen.toNat then raiseError .parse .param 0 0 s
  else if signatureOk s then walk (s.regs.flen.toNat + 1) (beginWalk s)
  else raiseError .parse .signature 0 0 (clearSeen s)

/-- PARSE (41_chunk_reader.md R151). -/
def execParse (s : State) : Host.Outcome State Fault Refusal := operation parseBody s

/-- A chunk action runs where PARSE is walking (30_encoding.md R97). -/
def whileWalking (act : Nat → Nat → State → State) (s : State) : Host.Outcome State Fault Refusal :=
  match s.seq with
  | .parse pos zlen => .next (act pos zlen s)
  | .idle => .refused .noChunkUnderWay
  | .recon _ _ => .refused .noChunkUnderWay

/-- IHDR (41_chunk_reader.md R157). -/
def execIhdr (s : State) : Host.Outcome State Fault Refusal := whileWalking ihdrChunk s

/-- IDAT (41_chunk_reader.md R159). -/
def execIdat (s : State) : Host.Outcome State Fault Refusal := whileWalking idatChunk s

/-- IEND (41_chunk_reader.md R160). -/
def execIend (s : State) : Host.Outcome State Fault Refusal := whileWalking iendChunk s

/-- CHUNK_OTHER (41_chunk_reader.md R161): whatever the tag is, it changes nothing but the cursor. -/
def execChunkOther (_tag : Word) (s : State) : Host.Outcome State Fault Refusal := whileWalking skipChunk s

end Sys2Proof.Machine
end

