-- ==== Sys2Proof/Machine/Control.lean ====
section
/-! DEFINITION. The control commands and the illegal command words (40_commands_control.md R130, R135, R136; 30_encoding.md
R92). -/

namespace Sys2Proof.Machine

/-- CLRERR (40_commands_control.md R135): the return from an error; with none recorded it only sets DONE. -/
def execClrerr (s : State) : Host.Outcome State Fault Refusal := control clearError s

/-- RST (40_commands_control.md R136): every register 0, the buffers unchanged; DONE is not set. -/
def execRst (s : State) : Host.Outcome State Fault Refusal := control resetRegisters s

/-- CMD_ILLEGAL (30_encoding.md R92, 60_exceptions.md R284): E_ILLEGAL_CMD with ERRPOS 0 and ERRINFO the word written. -/
def execCmdIllegal (w : Word) (s : State) : Host.Outcome State Fault Refusal :=
  dispatch (raiseError .dispatcher .illegalCmd 0 w.toNat) s

end Sys2Proof.Machine
end

