-- ==== Sys2Proof/Machine/Recon.lean ====
section
/-! DEFINITION. RECON, the scanline filter reconstructor, its five filters and the Paeth predictor
(42_scanline_reconstructor.md). -/

namespace Sys2Proof.Machine

/-! ### The predictors of left a, up b, upper-left c -/

/-- None: 0 (R184). -/
def predNone (_a _b _c : Byte) : Byte := 0

/-- Sub: left (R185). -/
def predSub (a _b _c : Byte) : Byte := a

/-- Up: up (R186). -/
def predUp (_a b _c : Byte) : Byte := b

/-- Average: floor((a + b) / 2), the sum formed without wrap-around (R187). -/
def predAverage (a b _c : Byte) : Byte := BitVec.ofNat 8 ((a.toNat + b.toNat) / 2)

/-- PaethPredictor (R190), on integers that do not wrap. -/
def paethPredictor (a b c : Byte) : Byte :=
  let p : Int := (a.toNat : Int) + (b.toNat : Int) - (c.toNat : Int)
  let pa := (p - (a.toNat : Int)).natAbs
  let pb := (p - (b.toNat : Int)).natAbs
  let pc := (p - (c.toNat : Int)).natAbs
  if pa ≤ pb ∧ pa ≤ pc then a
  else if pb ≤ pc then b
  else c

/-! ### One row -/

/-- The row's bytes from left to right (R181, R183): `cur` is CUR[0..i), the list argument the raw bytes from i on. The sum
with the predictor is mod 256 (R195). -/
def reconBytes (pred : Byte → Byte → Byte → Byte) (prev : List Byte) : List Byte → List Byte → List Byte
  | cur, [] => cur
  | cur, x :: raw =>
    reconBytes pred prev
      (cur ++ [x + pred (left cur cur.length) (up prev cur.length) (upperLeft prev cur.length)]) raw

/-- The raw data bytes of row y: the 4·W bytes after its tag (30_encoding.md R100). -/
def rawRow (s : State) (y : Nat) : List Byte :=
  s.rbuf.readBytes (rowBase s.regs.hdrWidth.toNat y + 1) (stride s.regs.hdrWidth.toNat)

/-- The filter tag of row y (30_encoding.md R100). -/
def rowTag (s : State) (y : Nat) : Byte := s.rbuf.read (rowBase s.regs.hdrWidth.toNat y)

/-- A row under a legal tag (R181): reconstructed, copied to GSRC, and kept as PREV for the next. -/
def filterRow (pred : Byte → Byte → Byte → Byte) (y : Nat) (prev : List Byte) (s : State) : State :=
  let row := reconBytes pred prev [] (rawRow s y)
  { s with
    gsrc := s.gsrc.writeBytes (y * stride s.regs.hdrWidth.toNat) row
    seq := .recon (y + 1) row }

/-- A row under an illegal tag (R189): E_FILTER_TAG with the row's index and the tag. -/
def illegalRow (tag : Byte) (y : Nat) (s : State) : State := raiseError .recon .filterTag y tag.toNat s

/-- The filter that a tag selects (30_encoding.md R101, 42_scanline_reconstructor.md R181). -/
def rowAction (tag : Byte) (y : Nat) (prev : List Byte) (s : State) : State :=
  if tag = 0x00 then filterRow predNone y prev s
  else if tag = 0x01 then filterRow predSub y prev s
  else if tag = 0x02 then filterRow predUp y prev s
  else if tag = 0x03 then filterRow predAverage y prev s
  else if tag = 0x04 then filterRow paethPredictor y prev s
  else illegalRow tag y s

/-! ### The command -/

/-- The end of RECON (R181): SW and SH are written and the command completes. -/
def finishRecon (s : State) : State :=
  complete { s with regs := { s.regs with sw := s.regs.hdrWidth, sh := s.regs.hdrHeight } }

/-- One turn of the row loop (R181): the rows below HDR_HEIGHT in order, then the end. -/
def rowStep (y : Nat) (prev : List Byte) (s : State) : State :=
  if y < s.regs.hdrHeight.toNat then rowAction (rowTag s y) y prev s else finishRecon s

/-- The row loop, turn by turn until RECON has ended. The bound is never reached from HDR_HEIGHT + 1 turns (00_scope.md R8;
log 19). -/
def rows : Nat → State → State
  | 0, s => s
  | n + 1, s =>
    match s.seq with
    | .recon y prev => rows n (rowStep y prev s)
    | .idle => s
    | .parse _ _ => s

/-- The state at the start of the row loop (R181, 10_state.md R46): row 0, PREV all zero. -/
def beginRows (s : State) : State :=
  { s with seq := .recon 0 (List.replicate (stride s.regs.hdrWidth.toNat) 0) }

/-- RECON's rule (R181): the three checks in order, then the rows. -/
def reconBody (s : State) : State :=
  if s.cfg.rbufCap.toNat < s.regs.rlen.toNat then raiseError .recon .param 0 0 s
  else if s.cfg.gridCap.toNat < 4 * s.regs.hdrWidth.toNat * s.regs.hdrHeight.toNat then
    raiseError .recon .capacity 0 0 s
  else if s.regs.rlen.toNat < streamLength s.regs.hdrWidth.toNat s.regs.hdrHeight.toNat then
    raiseError .recon .truncated s.regs.rlen.toNat 0 s
  else rows (s.regs.hdrHeight.toNat + 1) (beginRows s)

/-- RECON (R181). -/
def execRecon (s : State) : Host.Outcome State Fault Refusal := operation reconBody s

/-- A filter runs where RECON is running (30_encoding.md R101). -/
def whileReconstructing (act : Nat → List Byte → State → State) (s : State) : Host.Outcome State Fault Refusal :=
  match s.seq with
  | .recon y prev => .next (act y prev s)
  | .idle => .refused .noRowUnderWay
  | .parse _ _ => .refused .noRowUnderWay

/-- FILT_NONE (R184): the row's bytes unchanged. -/
def execFiltNone (s : State) : Host.Outcome State Fault Refusal := whileReconstructing (filterRow predNone) s

/-- FILT_SUB (R185). -/
def execFiltSub (s : State) : Host.Outcome State Fault Refusal := whileReconstructing (filterRow predSub) s

/-- FILT_UP (R186). -/
def execFiltUp (s : State) : Host.Outcome State Fault Refusal := whileReconstructing (filterRow predUp) s

/-- FILT_AVERAGE (R187). -/
def execFiltAverage (s : State) : Host.Outcome State Fault Refusal := whileReconstructing (filterRow predAverage) s

/-- FILT_PAETH (R188). -/
def execFiltPaeth (s : State) : Host.Outcome State Fault Refusal := whileReconstructing (filterRow paethPredictor) s

/-- FILT_ILLEGAL (R189). -/
def execFiltIllegal (tag : Byte) (s : State) : Host.Outcome State Fault Refusal :=
  whileReconstructing (fun y _ u => illegalRow tag y u) s

end Sys2Proof.Machine
end

