-- ==== Sys2Proof/Machine/Resize.lean ====
section
/-! DEFINITION. RESIZE, the bilinear resampler (43_resampler.md): exact integer arithmetic, one rounding, edge clamping. -/

namespace Sys2Proof.Machine

/-- `fdiv(n, d)` for d > 0: the quotient rounded toward −∞, also when n < 0 (00_scope.md R12). -/
def fdiv (n d : Int) : Int := Int.fdiv n d

/-- One axis of the coordinate mapping (43_resampler.md R214 to R216): the two source indexes and the weight's numerator over
the denominator 2·(target size). -/
structure Axis where
  /-- The nearer index after the clamp to 0: max(floor, 0). -/
  i0 : Int
  /-- The farther index, from the unclamped floor: min(floor + 1, size − 1). -/
  i1 : Int
  /-- f, the numerator of the fractional weight, 0 ≤ f < D. -/
  f : Int
  /-- D = 2·(target size). -/
  d : Int
deriving DecidableEq, Repr

/-- N of an axis (R211, R214): (2·t + 1)·size − target. -/
def axisNumerator (size target t : Nat) : Int := (2 * (t : Int) + 1) * (size : Int) - (target : Int)

/-- The mapping of target index t on one axis (R211): `size` and `target` are the source's and the target's extent. -/
def axis (size target t : Nat) : Axis :=
  let d : Int := 2 * (target : Int)
  let n := axisNumerator size target t
  let u := fdiv n d
  { i0 := max u 0, i1 := min (u + 1) ((size : Int) - 1), f := n - u * d, d := d }

/-- The blend's numerator over Dx·Dy (R211, R217): p00, p10 at row y0, p01, p11 at row y1, with no rounding between. -/
def blend (ax ay : Axis) (p00 p10 p01 p11 : Int) : Int :=
  let top := p00 * (ax.d - ax.f) + p10 * ax.f
  let bot := p01 * (ax.d - ax.f) + p11 * ax.f
  top * (ay.d - ay.f) + bot * ay.f

/-- `round_tie(num, den)` (R218). -/
def roundTie (tie : RoundTie) (num den : Int) : Int :=
  let q := fdiv num den
  let r := num - q * den
  if den < 2 * r then q + 1
  else if 2 * r < den then q
  else
    match tie with
    | .halfUp => q + 1
    | .halfEven => if q % 2 = 0 then q else q + 1

/-- The byte clamp min(max(v, 0), 255) (R219). -/
def clampByte (v : Int) : Byte := BitVec.ofNat 8 (min (max v 0) 255).toNat

/-- `src(x, y, c)` as an integer (R211, 00_scope.md R13). -/
def sourceSample (src : Buffer) (sw : Nat) (x y : Int) (c : Nat) : Int :=
  ((src.read (pixelOffset sw x.toNat y.toNat c)).toNat : Int)

/-- One output byte of the general path (R211): channel c of target pixel (x, y). -/
def resampled (tie : RoundTie) (src : Buffer) (sw sh dw dh x y c : Nat) : Byte :=
  let ax := axis sw dw x
  let ay := axis sh dh y
  let num :=
    blend ax ay (sourceSample src sw ax.i0 ay.i0 c) (sourceSample src sw ax.i1 ay.i0 c)
      (sourceSample src sw ax.i0 ay.i1 c) (sourceSample src sw ax.i1 ay.i1 c)
  clampByte (roundTie tie num (ax.d * ay.d))

/-- The whole target grid in offset order: offset k is channel k mod 4 of pixel k / 4 in row-major order (R211,
00_scope.md R13). -/
def resampledGrid (tie : RoundTie) (src : Buffer) (sw sh dw dh : Nat) : List Byte :=
  (List.range (4 * dw * dh)).map fun k => resampled tie src sw sh dw dh (k / 4 % dw) (k / 4 / dw) (k % 4)

/-- What RESIZE writes to GDST (R211, R212): a copy where both dimensions are equal, else the general path. -/
def resizedBytes (tie : RoundTie) (src : Buffer) (sw sh dw dh : Nat) : List Byte :=
  if dw = sw ∧ dh = sh then src.readBytes 0 (4 * sw * sh) else resampledGrid tie src sw sh dw dh

/-- The mask of zero operands of a state (R213). -/
def resizeMask (s : State) : Nat := zeroMask s.regs.sw.toNat s.regs.sh.toNat s.regs.tw.toNat s.regs.th.toNat

/-- RESIZE's rule (R211): the checks of R213 in order, then the grid; SW, SH and GSRC are never written. -/
def resizeBody (s : State) : State :=
  if resizeMask s ≠ 0 then raiseError .resize .param 0 (resizeMask s) s
  else if s.cfg.gridCap.toNat < 4 * s.regs.sw.toNat * s.regs.sh.toNat then raiseError .resize .capacity 0 0 s
  else if s.cfg.gridCap.toNat < 4 * s.regs.tw.toNat * s.regs.th.toNat then raiseError .resize .capacity 0 1 s
  else
    complete
      { s with
        gdst :=
          s.gdst.writeBytes 0
            (resizedBytes s.cfg.roundTie s.gsrc s.regs.sw.toNat s.regs.sh.toNat s.regs.tw.toNat s.regs.th.toNat)
        regs := { s.regs with dw := s.regs.tw, dh := s.regs.th } }

/-- RESIZE (R211). -/
def execResize (s : State) : Host.Outcome State Fault Refusal := operation resizeBody s

end Sys2Proof.Machine
end

