-- ==== Sys2Proof/Machine/Writer.lean ====
section
/-! DEFINITION. PACK, EMIT and CRC, the chunk writer and the checksum (44_chunk_writer_crc.md). -/

namespace Sys2Proof.Machine

/-! ### The checksum -/

/-- One of the 8 inner steps (44_chunk_writer_crc.md R248). -/
def crcShift (c : Word) : Word := if c.getLsbD 0 then (c >>> 1) ^^^ 0xEDB88320 else c >>> 1

/-- The accumulator after one byte (R248). -/
def crcStep (c : Word) (b : Byte) : Word :=
  crcShift (crcShift (crcShift (crcShift (crcShift (crcShift (crcShift (crcShift (c ^^^ b.setWidth 32))))))))

/-- The accumulator after a byte string (R248, 10_state.md R47). -/
def crcFold (c : Word) (bytes : List Byte) : Word := bytes.foldl crcStep c

/-- `crc32(s)` (R248): preset to all ones, complemented at the end. -/
def crc32 (bytes : List Byte) : Word := crcFold 0xFFFFFFFF bytes ^^^ 0xFFFFFFFF

/-! ### PACK -/

/-- Row y of the raw stream of a grid (R241, R242): the tag None, then the row's bytes unmodified. -/
def packRow (grid : Buffer) (w y : Nat) : List Byte := 0x00 :: grid.readBytes (y * stride w) (stride w)

/-- The raw stream of a grid, rows top to bottom (R241). -/
def packStream (grid : Buffer) (w h : Nat) : List Byte := (List.range h).flatMap (packRow grid w)

/-- PACK's rule (R241). -/
def packBody (s : State) : State :=
  if s.cfg.gridCap.toNat < 4 * s.regs.dw.toNat * s.regs.dh.toNat then raiseError .pack .capacity 0 0 s
  else if s.cfg.rbufCap.toNat < streamLength s.regs.dw.toNat s.regs.dh.toNat then raiseError .pack .capacity 0 1 s
  else
    complete
      { s with
        rbuf := s.rbuf.writeBytes 0 (packStream s.gdst s.regs.dw.toNat s.regs.dh.toNat)
        regs := { s.regs with rlen := BitVec.ofNat 32 (streamLength s.regs.dw.toNat s.regs.dh.toNat) } }

/-- PACK (R241). -/
def execPack (s : State) : Host.Outcome State Fault Refusal := operation packBody s

/-! ### EMIT -/

/-- `frame(tag, payload)` (R246): length, tag, payload, checksum of tag and payload. -/
def frame (tag : Word) (body : List Byte) : List Byte :=
  be32 (BitVec.ofNat 32 body.length) ++ be32 tag ++ body ++ be32 (crc32 (be32 tag ++ body))

/-- The header payload EMIT writes (R247). -/
def headerPayload (w h : Word) : List Byte := be32 w ++ be32 h ++ [0x08, 0x06, 0x00, 0x00, 0x00]

/-- The file EMIT builds (R245, R251): signature, header chunk, one data chunk, terminal chunk. -/
def emittedFile (w h : Word) (compressed : List Byte) : List Byte :=
  signatureBytes ++ frame tagIHDR (headerPayload w h) ++ frame tagIDAT compressed ++ frame tagIEND []

/-- EMIT's rule (R245): n = 57 + ZLEN bytes. -/
def emitBody (s : State) : State :=
  if s.cfg.zbufCap.toNat < s.regs.zlen.toNat then raiseError .emit .param 0 0 s
  else if s.cfg.fbufCap.toNat < 57 + s.regs.zlen.toNat then raiseError .emit .capacity 0 0 s
  else
    complete
      { s with
        fbuf := s.fbuf.writeBytes 0 (emittedFile s.regs.dw s.regs.dh (s.zbuf.readBytes 0 s.regs.zlen.toNat))
        regs := { s.regs with flen := BitVec.ofNat 32 (57 + s.regs.zlen.toNat) } }

/-- EMIT (R245). -/
def execEmit (s : State) : Host.Outcome State Fault Refusal := operation emitBody s

/-! ### CRC -/

/-- CRC's rule (R250); the sum COFF + CLEN is on unbounded naturals. -/
def crcBody (s : State) : State :=
  if s.cfg.fbufCap.toNat < s.regs.flen.toNat then raiseError .crc .param 0 0 s
  else if s.regs.flen.toNat < s.regs.coff.toNat + s.regs.clen.toNat then raiseError .crc .param 0 1 s
  else
    complete
      { s with
        regs := { s.regs with crcVal := crc32 (s.fbuf.readBytes s.regs.coff.toNat s.regs.clen.toNat) } }

/-- CRC (R250). -/
def execCrc (s : State) : Host.Outcome State Fault Refusal := operation crcBody s

end Sys2Proof.Machine
end

