-- ==== Sys2Proof/Machine/Dispatch.lean ====
section
/-! DEFINITION. The one dispatch from an instruction to its meaning. -/

namespace Sys2Proof.Machine

/-- The meaning of each row of spec/opcode_table.json. -/
def exec (i : Instr) (s : State) : Host.Outcome State Fault Refusal :=
  match i with
  | .parse => Sys2Proof.Machine.execParse s
  | .recon => Sys2Proof.Machine.execRecon s
  | .resize => Sys2Proof.Machine.execResize s
  | .pack => Sys2Proof.Machine.execPack s
  | .emit => Sys2Proof.Machine.execEmit s
  | .crc => Sys2Proof.Machine.execCrc s
  | .clrerr => Sys2Proof.Machine.execClrerr s
  | .rst => Sys2Proof.Machine.execRst s
  | .cmdIllegal w => Sys2Proof.Machine.execCmdIllegal w s
  | .ihdr => Sys2Proof.Machine.execIhdr s
  | .idat => Sys2Proof.Machine.execIdat s
  | .iend => Sys2Proof.Machine.execIend s
  | .chunkOther w => Sys2Proof.Machine.execChunkOther w s
  | .filtNone => Sys2Proof.Machine.execFiltNone s
  | .filtSub => Sys2Proof.Machine.execFiltSub s
  | .filtUp => Sys2Proof.Machine.execFiltUp s
  | .filtAverage => Sys2Proof.Machine.execFiltAverage s
  | .filtPaeth => Sys2Proof.Machine.execFiltPaeth s
  | .filtIllegal b => Sys2Proof.Machine.execFiltIllegal b s

end Sys2Proof.Machine
end

