-- ==== Sys2Proof/Machine/HostPort.lean ====
section
/-! DEFINITION. The host's accesses to the register space and to the buffers (10_state.md R20 to R22, 20_memory.md R60, R74,
R76; 70_reset_and_hazards.md R320). -/

namespace Sys2Proof.Machine

/-- The register of a 4-byte slot: slot k is offset 4·k (10_state.md R21). Slots 24 and above (offsets 0x60 and above) are
no registers (R20). -/
def Reg.ofSlot (slot : Nat) : Option Reg :=
  [Reg.cmd, .status, .errCode, .errPos, .errInfo, .flen, .zlen, .rlen, .hdrWidth, .hdrHeight, .hdrBitDepth, .hdrColor,
    .hdrComp, .hdrFilter, .hdrInterlace, .sw, .sh, .tw, .th, .dw, .dh, .coff, .clen, .crcVal][slot]?

/-- What a host read of a register returns (10_state.md R21): CMD, being write-only, reads 0 (R22). -/
def readReg (s : State) : Reg → Word
  | .cmd => 0
  | .status => Status.toWord s.status
  | .errCode => s.regs.errCode
  | .errPos => s.regs.errPos
  | .errInfo => s.regs.errInfo
  | .flen => s.regs.flen
  | .zlen => s.regs.zlen
  | .rlen => s.regs.rlen
  | .hdrWidth => s.regs.hdrWidth
  | .hdrHeight => s.regs.hdrHeight
  | .hdrBitDepth => s.regs.hdrBitDepth
  | .hdrColor => s.regs.hdrColor
  | .hdrComp => s.regs.hdrComp
  | .hdrFilter => s.regs.hdrFilter
  | .hdrInterlace => s.regs.hdrInterlace
  | .sw => s.regs.sw
  | .sh => s.regs.sh
  | .tw => s.regs.tw
  | .th => s.regs.th
  | .dw => s.regs.dw
  | .dh => s.regs.dh
  | .coff => s.regs.coff
  | .clen => s.regs.clen
  | .crcVal => s.regs.crcVal

/-- A host write to a register other than CMD (10_state.md R21): a read-only register ignores it. (A write to CMD is not an
access to a register's contents; the fetch hands it to the dispatcher, R22.) -/
def writeReg (rs : Regs) (v : Word) : Reg → Regs
  | .cmd => rs
  | .status => rs
  | .errCode => rs
  | .errPos => rs
  | .errInfo => rs
  | .flen => { rs with flen := v }
  | .zlen => { rs with zlen := v }
  | .rlen => { rs with rlen := v }
  | .hdrWidth => { rs with hdrWidth := v }
  | .hdrHeight => { rs with hdrHeight := v }
  | .hdrBitDepth => rs
  | .hdrColor => rs
  | .hdrComp => rs
  | .hdrFilter => rs
  | .hdrInterlace => rs
  | .sw => { rs with sw := v }
  | .sh => { rs with sh := v }
  | .tw => { rs with tw := v }
  | .th => { rs with th := v }
  | .dw => { rs with dw := v }
  | .dh => { rs with dh := v }
  | .coff => { rs with coff := v }
  | .clen => { rs with clen := v }
  | .crcVal => rs

/-- What a host read of a slot returns: 0 where there is no register (10_state.md R20). -/
def readSlot (s : State) (slot : Nat) : Word :=
  match Reg.ofSlot slot with
  | some r => readReg s r
  | none => 0

/-- A host write to a slot: ignored where there is no register (10_state.md R20). -/
def writeSlot (s : State) (slot : Nat) (v : Word) : State :=
  match Reg.ofSlot slot with
  | some r => { s with regs := writeReg s.regs v r }
  | none => s

/-- One host access while no command is under way. While BUSY = 1 only a read of STATUS is allowed (70_reset_and_hazards.md
R320, U5); a buffer offset at or beyond the capacity names no byte (20_memory.md R76, U9). -/
def hostAccess (a : Input) (s : State) : Host.Outcome State Fault Refusal :=
  match a with
  | .writeReg slot v => if s.status.busy then .refused .hostWhileBusy else .next (writeSlot s slot v)
  | .readReg slot =>
    if s.status.busy && !(slot == 1) then .refused .hostWhileBusy else .next { s with rdata := readSlot s slot }
  | .writeByte id off v =>
    if s.status.busy then .refused .hostWhileBusy
    else if off < capacityOf s.cfg id then .next (s.setBuf id ((s.buf id).write off v))
    else .fault (.noSuchByte id off)
  | .readByte id off =>
    if s.status.busy then .refused .hostWhileBusy
    else if off < capacityOf s.cfg id then .next { s with rdata := ((s.buf id).read off).setWidth 32 }
    else .fault (.noSuchByte id off)
  | .reset => .next (hardwareReset s)

end Sys2Proof.Machine
end

