-- ==== Sys2Proof/Machine/Fetch.lean ====
section
/-! DEFINITION. Where a step finds what it does next: the reset input, a tag of the walk, a filter tag of RECON, or the
host's next action (00_scope.md R7, 40_commands_control.md R133, 70_reset_and_hazards.md R310, R311). -/

namespace Sys2Proof.Machine

/-- What a step finds. -/
inductive Fetched where
  /-- An instruction, and the state it is executed in. -/
  | run (i : Instr) (s : State)
  /-- No instruction is decoded in this step; this is its outcome. -/
  | other (o : Host.Outcome State Fault Refusal)

/-- While PARSE walks (41_chunk_reader.md R151): the tag of the chunk at the cursor is decoded, or the walk ends. -/
def fetchTag (s : State) (pos zlen : Nat) : Fetched :=
  match fetchChunk s pos with
  | .atEnd => .other (.next (finishWalk pos zlen s))
  | .truncated => .other (.next (raiseError .parse .truncated pos 0 s))
  | .found tag => .run (decode (.tag tag)) s

/-- While RECON runs (42_scanline_reconstructor.md R181): the filter tag of the next row is decoded, or RECON ends. -/
def fetchFilter (s : State) (y : Nat) : Fetched :=
  if y < s.regs.hdrHeight.toNat then .run (decode (.filter (rowTag s y))) s else .other (.next (finishRecon s))

/-- While no command is under way: the host's next action. A write to CMD hands its word to the dispatcher and keeps nothing
of it (10_state.md R22); with no action pending the block is idle and keeps all state (60_exceptions.md R296). -/
def fetchHost (s : State) : Fetched :=
  match s.inputs with
  | [] => .other (.next s)
  | .writeReg slot v :: rest =>
    if slot = 0 then .run (decode (.cmd v)) { s with inputs := rest }
    else .other (hostAccess (.writeReg slot v) { s with inputs := rest })
  | .readReg slot :: rest => .other (hostAccess (.readReg slot) { s with inputs := rest })
  | .writeByte id off v :: rest => .other (hostAccess (.writeByte id off v) { s with inputs := rest })
  | .readByte id off :: rest => .other (hostAccess (.readByte id off) { s with inputs := rest })
  | .reset :: rest => .other (hostAccess .reset { s with inputs := rest })

/-- Whether the reset input is what comes next. -/
def resetPending (s : State) : Bool := s.inputs.head? == some .reset

/-- The fetch. Reset is looked at first, also while a command is under way (70_reset_and_hazards.md R311); the host's other
actions wait until the block is idle (R320). -/
def fetch (s : State) : Fetched :=
  if resetPending s then .other (.next (hardwareReset { s with inputs := s.inputs.tail }))
  else
    match s.seq with
    | .parse pos zlen => fetchTag s pos zlen
    | .recon y _ => fetchFilter s y
    | .idle => fetchHost s

/-- Place a code where the next step fetches it (log 10). A command word: the host's next action, with no command under way.
A chunk tag: the tag of a chunk of length 0 at offset 8 of FBUF, with PARSE's walk at that chunk and FLEN reaching its end.
A filter tag: the first byte of RBUF, with RECON at row 0 of an image that has a row. -/
def placeCode (s : State) : Code → State
  | .cmd w =>
    { s with inputs := .writeReg 0 w :: s.inputs, seq := .idle, status := { s.status with busy := false } }
  | .tag w =>
    { s with
      inputs := s.inputs.dropWhile (· == .reset)
      fbuf := s.fbuf.writeBytes 8 (be32 0 ++ be32 w)
      regs := { s.regs with flen := 20 }
      status := { s.status with busy := true }
      seq := .parse 8 0 }
  | .filter b =>
    { s with
      inputs := s.inputs.dropWhile (· == .reset)
      rbuf := s.rbuf.write 0 b
      regs := { s.regs with hdrHeight := if s.regs.hdrHeight = 0 then 1 else s.regs.hdrHeight }
      status := { s.status with busy := true }
      seq := .recon 0 (List.replicate (stride s.regs.hdrWidth.toNat) 0) }

end Sys2Proof.Machine
end

