-- ==== Sys2Proof/Machine/Step.lean ====
section
/-! DEFINITION. One step of the machine, and the placing of a code where the next step fetches it. -/

namespace Sys2Proof.Machine

/-- One step: the fetched instruction is executed, or the step is one of those that decode none. -/
def step (s : State) : Host.Outcome State Fault Refusal :=
  match fetch s with
  | .run i u => exec i u
  | .other o => o

/-- `s` with a code, numbered as spec/opcode_table.json numbers its rows, where the next step fetches it (log 9, 10); `s`
itself where the number is no code. -/
def State.withFetchWord (s : State) (nbits w : Nat) : State :=
  match codeOfTableWord nbits w with
  | some c => placeCode s c
  | none => s

end Sys2Proof.Machine
end

