-- ==== Sys2Proof/Safety.lean ====
section
/-! DEFINITION. The terms claims are stated in: the states a command can start from, what an error records, the operands
that must be in place (70_reset_and_hazards.md R312), the invariant of the machine, and what a safe run is. -/

namespace Sys2Proof.Machine

/-- The block is idle and no error is recorded: the next command word is accepted (40_commands_control.md R130). -/
def State.ready (s : State) : Bool := !s.status.busy && !s.status.err && s.seq == .idle

/-- The error registers and flags right after error entry (60_exceptions.md R285): code, position and detail. -/
def records (t : State) (code pos info : Nat) : Prop :=
  t.status.err = true ∧ t.status.busy = false ∧ t.status.done = false ∧ t.seq = .idle ∧
    t.regs.errCode = BitVec.ofNat 32 code ∧ t.regs.errPos = BitVec.ofNat 32 pos ∧ t.regs.errInfo = BitVec.ofNat 32 info

/-- `t` is `s` but for what an error entry of a command may change (60_exceptions.md R285, R286; 20_memory.md R66): the
command's outputs, STATUS, ERRCODE, ERRPOS, ERRINFO, the sequencer, and the model's counter. -/
def onlyOutputsDiffer (o : Origin) (s t : State) : Prop :=
  let r := { s.regs with errCode := t.regs.errCode, errPos := t.regs.errPos, errInfo := t.regs.errInfo }
  let u := { s with status := t.status, seq := t.seq, fresh := t.fresh }
  match o with
  | .parse =>
    t =
      { u with
        zbuf := t.zbuf
        regs :=
          { r with
            zlen := t.regs.zlen, hdrWidth := t.regs.hdrWidth, hdrHeight := t.regs.hdrHeight,
            hdrBitDepth := t.regs.hdrBitDepth, hdrColor := t.regs.hdrColor, hdrComp := t.regs.hdrComp,
            hdrFilter := t.regs.hdrFilter, hdrInterlace := t.regs.hdrInterlace } }
  | .recon =>
    t = { u with gsrc := t.gsrc, regs := { r with sw := t.regs.sw, sh := t.regs.sh } }
      ∧ t.status.hdrSeen = s.status.hdrSeen ∧ t.status.endSeen = s.status.endSeen
  | .resize =>
    t = { u with gdst := t.gdst, regs := { r with dw := t.regs.dw, dh := t.regs.dh } }
      ∧ t.status.hdrSeen = s.status.hdrSeen ∧ t.status.endSeen = s.status.endSeen
  | .pack =>
    t = { u with rbuf := t.rbuf, regs := { r with rlen := t.regs.rlen } }
      ∧ t.status.hdrSeen = s.status.hdrSeen ∧ t.status.endSeen = s.status.endSeen
  | .emit =>
    t = { u with fbuf := t.fbuf, regs := { r with flen := t.regs.flen } }
      ∧ t.status.hdrSeen = s.status.hdrSeen ∧ t.status.endSeen = s.status.endSeen
  | .crc =>
    t = { u with regs := { r with crcVal := t.regs.crcVal } }
      ∧ t.status.hdrSeen = s.status.hdrSeen ∧ t.status.endSeen = s.status.endSeen
  | .dispatcher =>
    t = { u with regs := r } ∧ t.status.hdrSeen = s.status.hdrSeen ∧ t.status.endSeen = s.status.endSeen

/-! ### The invariant -/

/-- A buffer in canonical form with no byte at or beyond its capacity (20_memory.md R60). -/
def bufferOk (cap : Nat) (b : Buffer) : Bool := Memory.wf b.cells && Memory.below b.cells cap

/-- The five buffers are so. -/
def State.buffersOk (s : State) : Bool :=
  bufferOk (capacityOf s.cfg .fbuf) s.fbuf && bufferOk (capacityOf s.cfg .zbuf) s.zbuf
    && bufferOk (capacityOf s.cfg .rbuf) s.rbuf && bufferOk (capacityOf s.cfg .gsrc) s.gsrc
    && bufferOk (capacityOf s.cfg .gdst) s.gdst

/-- Bits 31:8 of the five byte-wide HDR registers are 0 (10_state.md R21, U8). -/
def State.byteRegsOk (s : State) : Bool :=
  decide (s.regs.hdrBitDepth.toNat < 256) && decide (s.regs.hdrColor.toNat < 256) && decide (s.regs.hdrComp.toNat < 256)
    && decide (s.regs.hdrFilter.toNat < 256) && decide (s.regs.hdrInterlace.toNat < 256)

/-- HDR_SEEN = 1 only over an accepted header (10_state.md R27). -/
def State.headerOk (s : State) : Bool :=
  !s.status.hdrSeen
    || (s.regs.hdrBitDepth == 8 && s.regs.hdrColor == 6 && s.regs.hdrComp == 0 && s.regs.hdrFilter == 0
      && s.regs.hdrInterlace == 0)

/-- The codes the block produces (60_exceptions.md R280, U11): 1 to 10 without 5. -/
def producedCodes : List Word := [1, 2, 3, 4, 6, 7, 8, 9, 10]

/-- The flags (10_state.md R23 to R25): DONE and ERR are never both 1, a busy block has neither, the error registers are 0
while ERR = 0, and ERRCODE is a code the block produces while ERR = 1. -/
def State.flagsOk (s : State) : Bool :=
  !(s.status.done && s.status.err) && !(s.status.busy && s.status.done) && !(s.status.busy && s.status.err)
    && (if s.status.err then producedCodes.contains s.regs.errCode
      else s.regs.errCode == 0 && s.regs.errPos == 0 && s.regs.errInfo == 0)

/-- BUSY = 1 just while a command is under way, and the cursors within their bounds (10_state.md R23, R40, R46). -/
def State.seqOk (s : State) : Bool :=
  match s.seq with
  | .idle => !s.status.busy
  | .parse pos zlen =>
    s.status.busy && decide (8 ≤ pos) && decide (pos ≤ s.regs.flen.toNat)
      && decide (s.regs.flen.toNat ≤ s.cfg.fbufCap.toNat) && decide (zlen ≤ s.cfg.zbufCap.toNat)
  | .recon y prev =>
    s.status.busy && decide (y ≤ s.regs.hdrHeight.toNat) && decide (prev.length = stride s.regs.hdrWidth.toNat)
      && decide (4 * s.regs.hdrWidth.toNat * s.regs.hdrHeight.toNat ≤ s.cfg.gridCap.toNat)
      && decide (streamLength s.regs.hdrWidth.toNat s.regs.hdrHeight.toNat ≤ s.regs.rlen.toNat)
      && decide (s.regs.rlen.toNat ≤ s.cfg.rbufCap.toNat)

/-- The invariant of the machine. -/
def State.inv (s : State) : Bool := s.buffersOk && s.byteRegsOk && s.headerOk && s.flagsOk && s.seqOk

/-! ### Runs -/

/-- The states a run can reach: any implementation's block after reset, with any host script. -/
inductive Reachable : State → Prop where
  | start (c : Config) (script : List Input) : Reachable { State.reset with cfg := c, inputs := script }
  | step {s t : State} : Reachable s → Machine.step s = .next t → Reachable t

/-- A host action that names an existing byte or none (20_memory.md R76). -/
def inputInRange (c : Config) : Input → Bool
  | .writeReg _ _ => true
  | .readReg _ => true
  | .writeByte id off _ => decide (off < capacityOf c id)
  | .readByte id off => decide (off < capacityOf c id)
  | .reset => true

/-- The step answers a next state. -/
def answersNext : Host.Outcome State Fault Refusal → Bool
  | .next _ => true
  | .fault _ => false
  | .refused _ => false

/-- A safe run of n steps: none of them stops. -/
def safeFor : Nat → State → Prop
  | 0, _ => True
  | n + 1, s => ∃ t, step s = .next t ∧ safeFor n t

/-- n steps lead from one state to another. -/
def stepsTo : Nat → State → State → Prop
  | 0, s, t => s = t
  | n + 1, s, t => ∃ u, step s = .next u ∧ stepsTo n u t

/-- The bytes [0, n) of a buffer have been written since its contents became unspecified. -/
def writtenBelow (b : Buffer) (n : Nat) : Bool := (List.range n).all fun a => b.written a

/-- What must be in place before a command's result means anything (70_reset_and_hazards.md R312): the buffer bytes it may
read have been written. The command runs without it too, on unspecified bytes (R321; log 3). -/
def operandsInPlace (i : Instr) (s : State) : Bool :=
  match i with
  | .parse => writtenBelow s.fbuf s.regs.flen.toNat
  | .recon => writtenBelow s.rbuf s.regs.rlen.toNat
  | .resize => writtenBelow s.gsrc (4 * s.regs.sw.toNat * s.regs.sh.toNat)
  | .pack => writtenBelow s.gdst (4 * s.regs.dw.toNat * s.regs.dh.toNat)
  | .emit => writtenBelow s.zbuf s.regs.zlen.toNat
  | .crc => writtenBelow s.fbuf s.regs.flen.toNat
  | .clrerr => true
  | .rst => true
  | .cmdIllegal _ => true
  | .ihdr => writtenBelow s.fbuf s.regs.flen.toNat
  | .idat => writtenBelow s.fbuf s.regs.flen.toNat
  | .iend => writtenBelow s.fbuf s.regs.flen.toNat
  | .chunkOther _ => writtenBelow s.fbuf s.regs.flen.toNat
  | .filtNone => writtenBelow s.rbuf s.regs.rlen.toNat
  | .filtSub => writtenBelow s.rbuf s.regs.rlen.toNat
  | .filtUp => writtenBelow s.rbuf s.regs.rlen.toNat
  | .filtAverage => writtenBelow s.rbuf s.regs.rlen.toNat
  | .filtPaeth => writtenBelow s.rbuf s.regs.rlen.toNat
  | .filtIllegal _ => writtenBelow s.rbuf s.regs.rlen.toNat

/-- The operation commands (40_commands_control.md R130), each with the origin of its errors (60_exceptions.md R280). -/
def operations : List (Instr × Origin) :=
  [(.parse, .parse), (.recon, .recon), (.resize, .resize), (.pack, .pack), (.emit, .emit), (.crc, .crc)]

/-- The buffer an operation command reads (20_memory.md R66). -/
def inputBuffer : Origin → BufId
  | .parse => .fbuf
  | .recon => .rbuf
  | .resize => .gsrc
  | .pack => .gdst
  | .emit => .zbuf
  | .crc => .fbuf
  | .dispatcher => .fbuf

/-- The same state with other free values for the never-written bytes of one buffer (U1). -/
def reseed (id : BufId) (seed : Nat) (s : State) : State := s.setBuf id { s.buf id with seed := seed }

end Sys2Proof.Machine
end

