-- ==== Sys2Proof/Certificates/Slice0/Obligations.lean ====
section
/-! DEFINITION. The statements for the provers, from the numbered rules of the spec. -/

namespace Sys2Proof.Spec

open Sys2Proof.Machine

/-! ### The spec's own words, in numbers: what the statements compare the machine with -/

/-- PaethPredictor on integers (42_scanline_reconstructor.md R190). -/
def paeth (a b c : Nat) : Nat :=
  let p : Int := (a : Int) + b - c
  if (p - a).natAbs ≤ (p - b).natAbs ∧ (p - a).natAbs ≤ (p - c).natAbs then a
  else if (p - b).natAbs ≤ (p - c).natAbs then b
  else c

/-- `pred(t, a, b, c)` (R181). -/
def predictor (t a b c : Nat) : Nat :=
  if t = 0 then 0 else if t = 1 then a else if t = 2 then b else if t = 3 then (a + b) / 2 else paeth a b c

/-- The raw data byte i of row y (30_encoding.md R100). -/
def rawByte (s : State) (y i : Nat) : Byte := s.rbuf.read (y * (1 + 4 * s.regs.hdrWidth.toNat) + 1 + i)

/-- The filter tag of row y (30_encoding.md R100). -/
def tagByte (s : State) (y : Nat) : Byte := s.rbuf.read (y * (1 + 4 * s.regs.hdrWidth.toNat))

/-- `t` is `s` after row y, under the predictor `pred` of left, up and upper-left (R181 to R183): the row's bytes, each a
neighbour of the next ones, are in GSRC and in PREV; every other byte of GSRC reads as before; nothing else has changed. -/
def rowDone (pred : Nat → Nat → Nat → Nat) (y : Nat) (prev : List Byte) (s t : State) : Prop :=
  let S := 4 * s.regs.hdrWidth.toNat
  ∃ (g : Buffer) (row : List Byte),
    t = { s with gsrc := g, seq := .recon (y + 1) row } ∧ row.length = S ∧
      (∀ i, i < S →
        (row.getD i 0).toNat =
          ((rawByte s y i).toNat
              + pred (if 4 ≤ i then (row.getD (i - 4) 0).toNat else 0) (prev.getD i 0).toNat
                  (if 4 ≤ i then (prev.getD (i - 4) 0).toNat else 0))
            % 256) ∧
      (∀ i, i < S → g.read (y * S + i) = row.getD i 0) ∧ ∀ a, a < y * S ∨ y * S + S ≤ a → g.read a = s.gsrc.read a

/-- A chunk as it lies in a file (30_encoding.md R96): any trailer. -/
structure RawChunk where
  tag : Word
  body : List Byte
  trailer : List Byte
deriving DecidableEq, Repr

/-- Its bytes. -/
def RawChunk.bytes (c : RawChunk) : List Byte :=
  be32 (BitVec.ofNat 32 c.body.length) ++ be32 c.tag ++ c.body ++ c.trailer

/-- Its length fits the length field, and its trailer has four bytes. -/
def RawChunk.framed (c : RawChunk) : Bool := decide (c.body.length < 2 ^ 32) && decide (c.trailer.length = 4)

/-- If it is a header chunk, it is one that PARSE accepts (41_chunk_reader.md R157, R158). -/
def RawChunk.acceptable (c : RawChunk) : Bool :=
  decide (c.tag ≠ 0x49484452) || c.body.drop 8 == [8, 6, 0, 0, 0] && decide (c.body.length = 13)

/-- The payloads of the data chunks in order (41_chunk_reader.md R159). -/
def dataOf (cs : List RawChunk) : List Byte :=
  (cs.filter fun c => decide (c.tag = 0x49444154)).flatMap fun c => c.body

/-- The last header chunk (41_chunk_reader.md R163 c). -/
def lastHeader (cs : List RawChunk) : Option RawChunk := (cs.filter fun c => decide (c.tag = 0x49484452)).getLast?

/-- The signature (30_encoding.md R95). -/
def signature : List Byte := [0x89, 0x50, 0x4E, 0x47, 0x0D, 0x0A, 0x1A, 0x0A]

/-- A file: the signature, chunks that are not terminal, then nothing, or a terminal chunk and any bytes after it
(41_chunk_reader.md R156). -/
def fileOf (front : List RawChunk) : Option (RawChunk × List Byte) → List Byte
  | none => signature ++ front.flatMap RawChunk.bytes
  | some (c, rest) => signature ++ front.flatMap RawChunk.bytes ++ c.bytes ++ rest

/-- One output byte of RESIZE's general path, from the formulas of 43_resampler.md R214 to R219. -/
def blended (tie : RoundTie) (src : Nat → Nat → Int) (sw sh dw dh x y : Nat) : Byte :=
  let Dx : Int := 2 * dw
  let Dy : Int := 2 * dh
  let Nx : Int := (2 * x + 1) * sw - dw
  let Ny : Int := (2 * y + 1) * sh - dh
  let x0u := Int.fdiv Nx Dx
  let y0u := Int.fdiv Ny Dy
  let fx := Nx - x0u * Dx
  let fy := Ny - y0u * Dy
  let x1 := min (x0u + 1) (sw - 1)
  let y1 := min (y0u + 1) (sh - 1)
  let x0 := max x0u 0
  let y0 := max y0u 0
  let top := src x0.toNat y0.toNat * (Dx - fx) + src x1.toNat y0.toNat * fx
  let bot := src x0.toNat y1.toNat * (Dx - fx) + src x1.toNat y1.toNat * fx
  BitVec.ofNat 8 (min (max (roundTie tie (top * (Dy - fy) + bot * fy) (Dx * Dy)) 0) 255).toNat

/-- `T[m]` (44_chunk_writer_crc.md R249): what the accumulator reaches from m after the 8 inner steps of R248. -/
def crcTable (m : Byte) : Word :=
  crcShift (crcShift (crcShift (crcShift (crcShift (crcShift (crcShift (crcShift (m.setWidth 32))))))))

/-- The host compresses (30_encoding.md R111, DEFLATE): it puts a compression of RBUF[0..RLEN) into ZBUF and sets ZLEN. -/
def hostCompresses (compress : List Byte → List Byte) (s : State) : State :=
  let z := compress (s.rbuf.readBytes 0 s.regs.rlen.toNat)
  { s with zbuf := s.zbuf.writeBytes 0 z, regs := { s.regs with zlen := BitVec.ofNat 32 z.length } }

/-- The host decompresses (30_encoding.md R111, INFLATE): it puts the stream of ZBUF[0..ZLEN) into RBUF and sets RLEN. -/
def hostDecompresses (decompress : List Byte → List Byte) (s : State) : State :=
  let r := decompress (s.zbuf.readBytes 0 s.regs.zlen.toNat)
  { s with rbuf := s.rbuf.writeBytes 0 r, regs := { s.regs with rlen := BitVec.ofNat 32 r.length } }

/-- STATUS after a command that ended normally from a ready state (40_commands_control.md R130). -/
def doneStatus (st : Status) : Status := { st with done := true }

end Sys2Proof.Spec

open Sys2Proof Sys2Proof.Machine Sys2Proof.Spec

/-! ### Encoding -/

/-- The codes of 30_encoding.md R90, R97 and R101, written out, decode to their rows. -/
def Obligations.ListedCodesDecodeToTheirRows : Prop :=
  decode (.cmd 0x00000001) = .parse ∧ decode (.cmd 0x00000002) = .recon ∧ decode (.cmd 0x00000003) = .resize ∧
    decode (.cmd 0x00000004) = .pack ∧ decode (.cmd 0x00000005) = .emit ∧ decode (.cmd 0x00000006) = .crc ∧
    decode (.cmd 0x0000000E) = .clrerr ∧ decode (.cmd 0x0000000F) = .rst ∧
    decode (.tag (be32Of 0x49 0x48 0x44 0x52)) = .ihdr ∧ decode (.tag (be32Of 0x49 0x44 0x41 0x54)) = .idat ∧
    decode (.tag (be32Of 0x49 0x45 0x4E 0x44)) = .iend ∧ decode (.filter 0x00) = .filtNone ∧
    decode (.filter 0x01) = .filtSub ∧ decode (.filter 0x02) = .filtUp ∧ decode (.filter 0x03) = .filtAverage ∧
    decode (.filter 0x04) = .filtPaeth

/-- Decoding the code of a well-formed instruction gives it back, its operand whole. -/
def Obligations.EncodedInstructionsDecodeBack : Prop := ∀ i : Instr, i.wellFormed = true → decode (encode i) = i

/-- Every code decodes to a well-formed instruction whose code it is: no code is misread as a neighbour's. -/
def Obligations.DecodedCodesEncodeBack : Prop := ∀ c : Code, encode (decode c) = c ∧ (decode c).wellFormed = true

/-- R91: a command word is illegal just where bits 31:8 are not 0 or the opcode in bits 7:0 is none of the eight. -/
def Obligations.CommandWordFieldsDecideLegality : Prop :=
  ∀ w : Word,
    decode (.cmd w) = .cmdIllegal w ↔
      w.extractLsb' 8 24 ≠ 0 ∨ w.extractLsb' 0 8 ∉ ([0x01, 0x02, 0x03, 0x04, 0x05, 0x06, 0x0E, 0x0F] : List Byte)

/-- 30_encoding.md R97, R101, R102: a tag is unknown just where it is none of the three, and a filter tag is illegal just
where it is above 4. -/
def Obligations.OtherTagsTakeTheDefaultRow : Prop :=
  (∀ w : Word, decode (.tag w) = .chunkOther w ↔ w ∉ ([0x49484452, 0x49444154, 0x49454E44] : List Word)) ∧
    ∀ b : Byte, decode (.filter b) = .filtIllegal b ↔ 4 < b.toNat

/-! ### The step -/

/-- A step runs the decoded instruction: on an idle block the host's command word (the action is taken off the list); while
PARSE walks the tag of the whole chunk at the cursor; while RECON runs the filter tag of the next row. That a command under way
can also be stepped chunk by chunk and row by row is the model's choice (log 2). -/
def Obligations.StepRunsTheDecodedCode : Prop :=
  (∀ (s : State) (w : Word) (rest : List Input),
      s.seq = .idle → s.inputs = .writeReg 0 w :: rest → step s = exec (decode (.cmd w)) { s with inputs := rest }) ∧
    (∀ (s : State) (pos zlen : Nat),
      s.seq = .parse pos zlen → s.inputs.head? ≠ some .reset →
        pos + 12 + (s.fbuf.readBE32 pos).toNat ≤ s.regs.flen.toNat →
          step s = exec (decode (.tag (s.fbuf.readBE32 (pos + 4)))) s) ∧
    ∀ (s : State) (y : Nat) (prev : List Byte),
      s.seq = .recon y prev → s.inputs.head? ≠ some .reset → y < s.regs.hdrHeight.toNat →
        step s = exec (decode (.filter (tagByte s y))) s

/-- The code that `withFetchWord` places is what the next step runs, on the state it was placed in (but for the host action
that carries a command word). Where a code is placed is the model's choice (log 9, 10). -/
def Obligations.PlacedCodeIsRunByTheNextStep : Prop :=
  ∀ (s : State) (nbits w : Nat) (i : Instr),
    Memory.wf s.fbuf.cells = true → Memory.wf s.rbuf.cells = true → decodeTableWord nbits w = some i →
      ∃ rest,
        step (s.withFetchWord nbits w) = exec i { s.withFetchWord nbits w with inputs := rest } ∧
          ((s.withFetchWord nbits w).seq = .idle → rest = s.inputs)

/-- 60_exceptions.md R296: an idle block with nothing to do keeps all state. -/
def Obligations.IdleBlockKeepsAllState : Prop :=
  ∀ s : State, s.seq = .idle → s.inputs = [] → step s = .next s

/-- 00_scope.md R8: PARSE and RECON, each taken as one step, are the steps of their walk and of their rows from the state
they begin in, while no reset arrives. The finer steps are the model's choice (log 2). -/
def Obligations.CommandsAreTheirOwnSteps : Prop :=
  (∀ s : State,
      s.ready = true → s.inputs.head? ≠ some .reset → s.regs.flen.toNat ≤ s.cfg.fbufCap.toNat → signatureOk s = true →
        ∃ n t, exec .parse s = .next t ∧ stepsTo n (beginWalk (acceptCommand s)) t) ∧
    ∀ s : State,
      s.ready = true → s.inputs.head? ≠ some .reset → s.regs.rlen.toNat ≤ s.cfg.rbufCap.toNat →
        4 * s.regs.hdrWidth.toNat * s.regs.hdrHeight.toNat ≤ s.cfg.gridCap.toNat →
          s.regs.hdrHeight.toNat * (1 + 4 * s.regs.hdrWidth.toNat) ≤ s.regs.rlen.toNat →
            ∃ n t, exec .recon s = .next t ∧ stepsTo n (beginRows (acceptCommand s)) t

/-! ### The host's port -/

/-- 10_state.md R20 to R22, 20_memory.md R74: what a host read of each offset returns (slot k is offset 4·k), and that the step
on a host read delivers it and changes nothing else. That it is delivered in `rdata` is the model's choice (log 18). -/
def Obligations.RegisterMapReads : Prop :=
  ∀ s : State,
    (List.range 24).map (readSlot s) =
        [0, Status.toWord s.status, s.regs.errCode, s.regs.errPos, s.regs.errInfo, s.regs.flen, s.regs.zlen, s.regs.rlen,
          s.regs.hdrWidth, s.regs.hdrHeight, s.regs.hdrBitDepth, s.regs.hdrColor, s.regs.hdrComp, s.regs.hdrFilter,
          s.regs.hdrInterlace, s.regs.sw, s.regs.sh, s.regs.tw, s.regs.th, s.regs.dw, s.regs.dh, s.regs.coff,
          s.regs.clen, s.regs.crcVal] ∧
      (∀ k, 24 ≤ k → readSlot s k = 0) ∧
      ∀ (k : Nat) (rest : List Input),
        s.seq = .idle → s.status.busy = false → s.inputs = .readReg k :: rest →
          step s = .next { s with inputs := rest, rdata := readSlot s k }

/-- 10_state.md R20, R21: a host write to a read-write register changes that register alone; to any other slot but CMD's it
is ignored. -/
def Obligations.HostRegisterWrites : Prop :=
  ∀ (s : State) (slot : Nat) (v : Word) (rest : List Input),
    s.seq = .idle → s.status.busy = false → s.inputs = .writeReg slot v :: rest → slot ≠ 0 →
      (slot ∈ [5, 6, 7, 8, 9, 15, 16, 17, 18, 19, 20, 21, 22] →
          ∃ r,
            step s = .next { s with inputs := rest, regs := r } ∧ readSlot { s with regs := r } slot = v ∧
              ∀ k, k ≠ slot → readSlot { s with regs := r } k = readSlot s k) ∧
        (slot ∉ [5, 6, 7, 8, 9, 15, 16, 17, 18, 19, 20, 21, 22] → step s = .next { s with inputs := rest })

/-- 20_memory.md R74 to R76: a host access to a byte below the capacity writes or reads that byte alone; at or beyond the
capacity there is no byte and the model stops by name (log 7). -/
def Obligations.HostByteAccesses : Prop :=
  ∀ (s : State) (id : BufId) (off : Nat) (rest : List Input),
    s.seq = .idle → s.status.busy = false → Memory.wf (s.buf id).cells = true →
      (∀ v,
          s.inputs = .writeByte id off v :: rest →
            (off < capacityOf s.cfg id →
                ∃ b,
                  step s = .next ({ s with inputs := rest }.setBuf id b) ∧ b.read off = v ∧
                    ∀ a, a ≠ off → b.read a = (s.buf id).read a) ∧
              (capacityOf s.cfg id ≤ off → step s = .fault (.noSuchByte id off))) ∧
        (s.inputs = .readByte id off :: rest →
          (off < capacityOf s.cfg id →
              step s = .next { s with inputs := rest, rdata := ((s.buf id).read off).setWidth 32 }) ∧
            (capacityOf s.cfg id ≤ off → step s = .fault (.noSuchByte id off)))

/-- 10_state.md R23: the bits of STATUS. -/
def Obligations.StatusWordFields : Prop :=
  ∀ (st : Status) (i : Nat),
    (Status.toWord st).getLsbD i =
      if i = 0 then st.busy
      else if i = 1 then st.done
      else if i = 2 then st.err
      else if i = 3 then st.hdrSeen
      else if i = 4 then st.endSeen
      else false

/-! ### Reset, control commands, dispatch -/

/-- 10_state.md R50, 70_reset_and_hazards.md R310, R311: after reset, whenever it arrives, every register reads 0 and the block
is idle, and no buffer byte has a value that anything wrote; after RST the registers are so and the buffers are unchanged. -/
def Obligations.ResetsClearEveryRegister : Prop :=
  ((∀ k, readSlot State.reset k = 0) ∧ State.reset.seq = .idle ∧
      ∀ id a, (State.reset.buf id).written a = false) ∧
    (∀ (s : State) (rest : List Input),
      s.inputs = .reset :: rest →
        ∃ t,
          step s = .next t ∧ (∀ k, readSlot t k = 0) ∧ t.seq = .idle ∧ (∀ id a, (t.buf id).written a = false) ∧
            t.cfg = s.cfg) ∧
    ∀ s : State,
      s.status.busy = false →
        ∃ t, exec .rst s = .next t ∧ (∀ k, readSlot t k = 0) ∧ t.seq = .idle ∧ ∀ id, t.buf id = s.buf id

/-- R135: CLRERR. -/
def Obligations.ClearErrorForgetsTheError : Prop :=
  decode (.cmd 0x0000000E) = .clrerr ∧
    ∀ s : State,
      s.status.busy = false →
        exec .clrerr s =
          .next
            { s with
              status := { s.status with err := false, done := true }
              regs := { s.regs with errCode := 0, errPos := 0, errInfo := 0 } }

/-- R136: RST. -/
def Obligations.SoftResetZeroesTheRegisters : Prop :=
  decode (.cmd 0x0000000F) = .rst ∧
    ∀ s : State,
      s.status.busy = false →
        exec .rst s =
          .next
            { s with
              regs := Regs.zero
              status := { busy := false, done := false, err := false, hdrSeen := false, endSeen := false }
              seq := .idle }

/-- R284: an illegal word, written while the block is ready, records E_ILLEGAL_CMD with ERRPOS 0 and the word in ERRINFO, and
changes nothing else but DONE. -/
def Obligations.IllegalCommandIsRecorded : Prop :=
  ∀ (s : State) (w : Word),
    s.ready = true → w ∉ ([1, 2, 3, 4, 5, 6, 0xE, 0xF] : List Word) →
      decode (.cmd w) = .cmdIllegal w ∧
        exec (.cmdIllegal w) s =
          .next
            { s with
              status := { s.status with err := true, busy := false, done := false }
              regs := { s.regs with errCode := 10, errPos := 0, errInfo := w } }

/-- R134: while an error is recorded, a write to CMD of any word other than CLRERR and RST changes nothing at all. R289: from
every state that meets the invariant the recorded error outlasts every step but one that takes CLRERR, RST or the reset
input; each of those leaves the error state and raises nothing, and CLRERR restores nothing. -/
def Obligations.NothingRunsWhileAnErrorIsRecorded : Prop :=
  (∀ (s : State) (w : Word),
      s.status.busy = false → s.status.err = true → w ≠ 0x0000000E → w ≠ 0x0000000F →
        exec (decode (.cmd w)) s = .next s) ∧
    (∀ s t : State,
      s.inv = true → s.status.err = true → step s = .next t → s.inputs.head? ≠ some .reset →
        s.inputs.head? ≠ some (.writeReg 0 0x0000000E) → s.inputs.head? ≠ some (.writeReg 0 0x0000000F) →
          t.status.err = true ∧ t.regs.errCode = s.regs.errCode ∧ t.regs.errPos = s.regs.errPos ∧
            t.regs.errInfo = s.regs.errInfo) ∧
    ∀ (s : State) (rest : List Input),
      s.inv = true → s.status.err = true →
        (s.inputs = .writeReg 0 0x0000000E :: rest →
            step s =
              .next
                { s with
                  inputs := rest
                  status := { s.status with err := false, done := true }
                  regs := { s.regs with errCode := 0, errPos := 0, errInfo := 0 } }) ∧
          (s.inputs = .writeReg 0 0x0000000F :: rest ∨ s.inputs = .reset :: rest →
            ∃ t,
              step s = .next t ∧ t.status.err = false ∧ t.regs.errCode = 0 ∧ t.regs.errPos = 0 ∧ t.regs.errInfo = 0)

/-- R67 with 60_exceptions.md R286: however an operation command ends, it has changed only its own outputs, STATUS and the
error registers; its inputs are unchanged. -/
def Obligations.CommandsChangeOnlyTheirOutputs : Prop :=
  ∀ (s : State) (i : Instr) (o : Origin),
    (i, o) ∈ operations → s.ready = true → ∃ t, exec i s = .next t ∧ onlyOutputsDiffer o s t

/-- 10_state.md R24, 00_scope.md R8, 60_exceptions.md R285: an operation command started on a ready block ends, idle, with
exactly one of DONE and ERR set; a PARSE that ends in error leaves HDR_SEEN and END_SEEN 0. -/
def Obligations.CommandsEndDoneOrInError : Prop :=
  ∀ (s : State) (i : Instr) (o : Origin),
    (i, o) ∈ operations → s.ready = true → s.regs.errCode = 0 → s.regs.errPos = 0 → s.regs.errInfo = 0 →
      ∃ t,
        exec i s = .next t ∧ t.seq = .idle ∧ t.status.busy = false ∧
          (t.status.done = true ∧ t.status.err = false ∧ t.regs.errCode = 0 ∧ t.regs.errPos = 0 ∧ t.regs.errInfo = 0 ∨
            t.status.done = false ∧ t.status.err = true ∧
              (i = .parse → t.status.hdrSeen = false ∧ t.status.endSeen = false))

/-- 60_exceptions.md R286, 20_memory.md R66: a chunk action, however it ends, changes only what PARSE may change, and a filter
only what RECON may change. -/
def Obligations.ChunkAndRowActionsChangeOnlyTheirOutputs : Prop :=
  (∀ (s : State) (pos zlen : Nat) (i : Instr) (w : Word),
      s.seq = .parse pos zlen → i ∈ [.ihdr, .idat, .iend, .chunkOther w] →
        ∃ t, exec i s = .next t ∧ onlyOutputsDiffer .parse s t) ∧
    ∀ (s : State) (y : Nat) (prev : List Byte) (i : Instr) (b : Byte),
      s.seq = .recon y prev → i ∈ [.filtNone, .filtSub, .filtUp, .filtAverage, .filtPaeth, .filtIllegal b] →
        ∃ t, exec i s = .next t ∧ onlyOutputsDiffer .recon s t

/-! ### PARSE -/

/-- 41_chunk_reader.md R151, R152: FLEN above the capacity is E_PARAM; else a buffer that does not begin with the signature, or
is shorter than 8 bytes, is E_SIGNATURE. -/
def Obligations.ParseChecksLengthAndSignature : Prop :=
  ∀ s : State,
    s.ready = true →
      (s.cfg.fbufCap.toNat < s.regs.flen.toNat → ∃ t, exec .parse s = .next t ∧ records t 9 0 0) ∧
        (s.regs.flen.toNat ≤ s.cfg.fbufCap.toNat →
          s.regs.flen.toNat < 8 ∨ (∃ k, k < 8 ∧ s.fbuf.read k ≠ signature.getD k 0) →
            ∃ t, exec .parse s = .next t ∧ records t 1 0 0)

/-- R157, R158: the header chunk. A length other than 13 is E_HEADER_LENGTH; failing fields are E_HEADER_UNSUPPORTED with one
bit each; otherwise the seven registers are loaded and HDR_SEEN is set. -/
def Obligations.HeaderChunkLoadsTheHeader : Prop :=
  decode (.tag 0x49484452) = .ihdr ∧
    ∀ (s : State) (pos zlen : Nat),
      s.seq = .parse pos zlen →
        let L := (s.fbuf.readBE32 pos).toNat
        let P := fun k => s.fbuf.read (pos + 8 + k)
        (L ≠ 13 → ∃ t, exec .ihdr s = .next t ∧ records t 7 pos L) ∧
          (L = 13 → ¬(P 8 = 8 ∧ P 9 = 6 ∧ P 10 = 0 ∧ P 11 = 0 ∧ P 12 = 0) →
            ∃ t m,
              exec .ihdr s = .next t ∧ records t 3 pos m ∧ m < 32 ∧ (m.testBit 0 = true ↔ P 8 ≠ 8) ∧
                (m.testBit 1 = true ↔ P 9 ≠ 6) ∧ (m.testBit 2 = true ↔ P 10 ≠ 0) ∧ (m.testBit 3 = true ↔ P 11 ≠ 0) ∧
                (m.testBit 4 = true ↔ P 12 ≠ 0)) ∧
          (L = 13 → P 8 = 8 → P 9 = 6 → P 10 = 0 → P 11 = 0 → P 12 = 0 →
            exec .ihdr s =
              .next
                { s with
                  regs :=
                    { s.regs with
                      hdrWidth := be32Of (P 0) (P 1) (P 2) (P 3), hdrHeight := be32Of (P 4) (P 5) (P 6) (P 7),
                      hdrBitDepth := 8, hdrColor := 6, hdrComp := 0, hdrFilter := 0, hdrInterlace := 0 }
                  status := { s.status with hdrSeen := true }
                  seq := .parse (pos + 25) zlen })

/-- R159: a data chunk. Its payload is appended to ZBUF unless it does not fit. -/
def Obligations.DataChunkIsAppended : Prop :=
  decode (.tag 0x49444154) = .idat ∧
    ∀ (s : State) (pos zlen : Nat),
      s.seq = .parse pos zlen → Memory.wf s.zbuf.cells = true →
        let L := (s.fbuf.readBE32 pos).toNat
        (s.cfg.zbufCap.toNat < zlen + L → ∃ t, exec .idat s = .next t ∧ records t 8 pos 0) ∧
          (zlen + L ≤ s.cfg.zbufCap.toNat →
            ∃ g,
              exec .idat s = .next { s with zbuf := g, seq := .parse (pos + 12 + L) (zlen + L) } ∧
                (∀ k, k < L → g.read (zlen + k) = s.fbuf.read (pos + 8 + k)) ∧
                ∀ a, a < zlen ∨ zlen + L ≤ a → g.read a = s.zbuf.read a)

/-- R160, R162: the terminal chunk, of whatever length, sets END_SEEN and ends the walk: normally where a header was accepted,
else with E_NO_HEADER at the offset just past it. -/
def Obligations.TerminalChunkEndsTheWalk : Prop :=
  decode (.tag 0x49454E44) = .iend ∧
    ∀ (s : State) (pos zlen : Nat),
      s.seq = .parse pos zlen →
        let L := (s.fbuf.readBE32 pos).toNat
        (s.status.hdrSeen = true →
            exec .iend s =
              .next
                { s with
                  regs := { s.regs with zlen := BitVec.ofNat 32 zlen }
                  status := { s.status with endSeen := true, busy := false, done := true }
                  seq := .idle }) ∧
          (s.status.hdrSeen = false → ∃ t, exec .iend s = .next t ∧ records t 2 (pos + 12 + L) 0)

/-- R161: a chunk with any other tag changes nothing but the cursor. -/
def Obligations.UnknownChunkIsSkipped : Prop :=
  (∀ w : Word, w ∉ ([0x49484452, 0x49444154, 0x49454E44] : List Word) → decode (.tag w) = .chunkOther w) ∧
    ∀ (s : State) (pos zlen : Nat) (w : Word),
      s.seq = .parse pos zlen →
        exec (.chunkOther w) s = .next { s with seq := .parse (pos + 12 + (s.fbuf.readBE32 pos).toNat) zlen }

/-- 41_chunk_reader.md R151, R153, R162: the walk where no whole chunk follows. 1 to 7 bytes left, or a chunk that passes FLEN,
is E_TRUNCATED at the chunk; no byte left is the end, normal or E_NO_HEADER. -/
def Obligations.WalkEndsWhereNoChunkFollows : Prop :=
  ∀ (s : State) (pos zlen : Nat),
    s.seq = .parse pos zlen → s.inputs.head? ≠ some .reset →
      (pos ≠ s.regs.flen.toNat → s.regs.flen.toNat < pos + 12 + (s.fbuf.readBE32 pos).toNat →
          ∃ t, step s = .next t ∧ records t 6 pos 0) ∧
        (pos = s.regs.flen.toNat → s.status.hdrSeen = false → ∃ t, step s = .next t ∧ records t 2 pos 0) ∧
        (pos = s.regs.flen.toNat → s.status.hdrSeen = true →
          step s =
            .next
              { s with
                regs := { s.regs with zlen := BitVec.ofNat 32 zlen }
                status := { s.status with busy := false, done := true }
                seq := .idle })

/-- R164: PARSE of a whole file. Chunks in any order, headers repeated, unknown chunks between, any trailers, any bytes after
the terminal chunk or no terminal chunk at all: ZBUF has the data payloads in order, the HDR registers the last header, and
nothing else has changed. -/
def Obligations.ParseReadsAWholeFile : Prop :=
  ∀ (s : State) (front : List RawChunk) (stop : Option (RawChunk × List Byte)) (h : RawChunk),
    s.ready = true → Memory.wf s.zbuf.cells = true →
      (∀ c ∈ front, c.framed = true ∧ c.acceptable = true ∧ c.tag ≠ 0x49454E44) →
        (∀ c rest, stop = some (c, rest) → c.framed = true ∧ c.tag = 0x49454E44) →
          lastHeader front = some h → s.regs.flen.toNat = (fileOf front stop).length →
            s.regs.flen.toNat ≤ s.cfg.fbufCap.toNat → s.fbuf.readBytes 0 s.regs.flen.toNat = fileOf front stop →
              (dataOf front).length ≤ s.cfg.zbufCap.toNat →
                ∃ g,
                  exec .parse s =
                      .next
                        { s with
                          zbuf := g
                          regs :=
                            { s.regs with
                              zlen := BitVec.ofNat 32 (dataOf front).length
                              hdrWidth := be32Of (h.body.getD 0 0) (h.body.getD 1 0) (h.body.getD 2 0) (h.body.getD 3 0)
                              hdrHeight := be32Of (h.body.getD 4 0) (h.body.getD 5 0) (h.body.getD 6 0) (h.body.getD 7 0)
                              hdrBitDepth := 8
                              hdrColor := 6
                              hdrComp := 0
                              hdrFilter := 0
                              hdrInterlace := 0 }
                          status :=
                            { busy := false, done := true, err := false, hdrSeen := true, endSeen := stop.isSome } } ∧
                    (∀ a, a < (dataOf front).length → g.read a = (dataOf front).getD a 0) ∧
                    ∀ a, (dataOf front).length ≤ a → g.read a = s.zbuf.read a

/-- 41_chunk_reader.md R153: no byte at or beyond FLEN is ever read by PARSE. Two blocks whose FBUF agrees below FLEN end
alike. -/
def Obligations.ParseReadsNothingBeyondFlen : Prop :=
  ∀ (s t : State) (b : Buffer),
    s.ready = true → (∀ a, a < s.regs.flen.toNat → b.read a = s.fbuf.read a) → exec .parse s = .next t →
      exec .parse { s with fbuf := b } = .next { t with fbuf := b }

/-! ### RECON -/

/-- R184, R185, R186: the filters None, Sub and Up reconstruct a row. -/
def Obligations.NoneSubUpReconstructARow : Prop :=
  decode (.filter 0x00) = .filtNone ∧ decode (.filter 0x01) = .filtSub ∧ decode (.filter 0x02) = .filtUp ∧
    ∀ (s : State) (y : Nat) (prev : List Byte),
      s.seq = .recon y prev → Memory.wf s.gsrc.cells = true →
        (∃ t, exec .filtNone s = .next t ∧ rowDone (fun _ _ _ => 0) y prev s t) ∧
          (∃ t, exec .filtSub s = .next t ∧ rowDone (fun a _ _ => a) y prev s t) ∧
          ∃ t, exec .filtUp s = .next t ∧ rowDone (fun _ b _ => b) y prev s t

/-- R187: the filter Average reconstructs a row; the sum of left and up does not wrap. -/
def Obligations.AverageReconstructsARow : Prop :=
  decode (.filter 0x03) = .filtAverage ∧
    ∀ (s : State) (y : Nat) (prev : List Byte),
      s.seq = .recon y prev → Memory.wf s.gsrc.cells = true →
        ∃ t, exec .filtAverage s = .next t ∧ rowDone (fun a b _ => (a + b) / 2) y prev s t

/-- R188: the filter Paeth reconstructs a row; with b = c = 0 it acts as Sub, with a = c = 0 as Up. -/
def Obligations.PaethReconstructsARow : Prop :=
  decode (.filter 0x04) = .filtPaeth ∧
    (∀ (s : State) (y : Nat) (prev : List Byte),
        s.seq = .recon y prev → Memory.wf s.gsrc.cells = true →
          ∃ t, exec .filtPaeth s = .next t ∧ rowDone paeth y prev s t) ∧
      (∀ a, paeth a 0 0 = a) ∧ ∀ b, paeth 0 b 0 = b

/-- R189: an illegal filter tag raises E_FILTER_TAG with the row's index and the tag, before any byte of the row is
reconstructed; the step that reads the tag is the one that raises. -/
def Obligations.IllegalFilterTagIsRecorded : Prop :=
  (∀ b : Byte, 4 < b.toNat → decode (.filter b) = .filtIllegal b) ∧
    (∀ (s : State) (y : Nat) (prev : List Byte) (b : Byte),
        s.seq = .recon y prev → ∃ t, exec (.filtIllegal b) s = .next t ∧ records t 4 y b.toNat) ∧
      ∀ (s : State) (y : Nat) (prev : List Byte),
        s.seq = .recon y prev → s.inputs.head? ≠ some .reset → y < s.regs.hdrHeight.toNat → 4 < (tagByte s y).toNat →
          ∃ t, step s = .next t ∧ records t 4 y (tagByte s y).toNat

/-- R182, R183: RECON of a stream whose tags are legal. Every byte of the grid is its raw byte plus the predictor of
neighbours that are themselves bytes of the grid, 0 where there is none; bytes beyond the grid are unchanged. -/
def Obligations.ReconRebuildsTheGrid : Prop :=
  ∀ s : State,
    s.ready = true → Memory.wf s.gsrc.cells = true → s.regs.rlen.toNat ≤ s.cfg.rbufCap.toNat →
      4 * s.regs.hdrWidth.toNat * s.regs.hdrHeight.toNat ≤ s.cfg.gridCap.toNat →
        s.regs.hdrHeight.toNat * (1 + 4 * s.regs.hdrWidth.toNat) ≤ s.regs.rlen.toNat →
          (∀ y, y < s.regs.hdrHeight.toNat → (tagByte s y).toNat ≤ 4) →
            let S := 4 * s.regs.hdrWidth.toNat
            ∃ g,
              exec .recon s =
                  .next
                    { s with
                      gsrc := g
                      regs := { s.regs with sw := s.regs.hdrWidth, sh := s.regs.hdrHeight }
                      status := doneStatus s.status } ∧
                (∀ y i, y < s.regs.hdrHeight.toNat → i < S →
                  (g.read (y * S + i)).toNat =
                    ((rawByte s y i).toNat
                        + predictor (tagByte s y).toNat (if 4 ≤ i then (g.read (y * S + i - 4)).toNat else 0)
                            (if 1 ≤ y then (g.read ((y - 1) * S + i)).toNat else 0)
                            (if 1 ≤ y ∧ 4 ≤ i then (g.read ((y - 1) * S + i - 4)).toNat else 0))
                      % 256) ∧
                ∀ a, S * s.regs.hdrHeight.toNat ≤ a → g.read a = s.gsrc.read a

/-- 42_scanline_reconstructor.md R181, R192: the checks of RECON in their order. -/
def Obligations.ReconChecksItsOperands : Prop :=
  ∀ s : State,
    s.ready = true →
      (s.cfg.rbufCap.toNat < s.regs.rlen.toNat → ∃ t, exec .recon s = .next t ∧ records t 9 0 0) ∧
        (s.regs.rlen.toNat ≤ s.cfg.rbufCap.toNat →
          s.cfg.gridCap.toNat < 4 * s.regs.hdrWidth.toNat * s.regs.hdrHeight.toNat →
            ∃ t, exec .recon s = .next t ∧ records t 8 0 0) ∧
        (s.regs.rlen.toNat ≤ s.cfg.rbufCap.toNat →
          4 * s.regs.hdrWidth.toNat * s.regs.hdrHeight.toNat ≤ s.cfg.gridCap.toNat →
            s.regs.rlen.toNat < s.regs.hdrHeight.toNat * (1 + 4 * s.regs.hdrWidth.toNat) →
              ∃ t, exec .recon s = .next t ∧ records t 6 s.regs.rlen.toNat 0)

/-- 60_exceptions.md R288 c: among illegal tags RECON reports the row with the smallest index. -/
def Obligations.ReconReportsTheFirstIllegalRow : Prop :=
  ∀ (s : State) (y : Nat),
    s.ready = true → s.regs.rlen.toNat ≤ s.cfg.rbufCap.toNat →
      4 * s.regs.hdrWidth.toNat * s.regs.hdrHeight.toNat ≤ s.cfg.gridCap.toNat →
        s.regs.hdrHeight.toNat * (1 + 4 * s.regs.hdrWidth.toNat) ≤ s.regs.rlen.toNat →
          y < s.regs.hdrHeight.toNat → 4 < (tagByte s y).toNat → (∀ k, k < y → (tagByte s k).toNat ≤ 4) →
            ∃ t, exec .recon s = .next t ∧ records t 4 y (tagByte s y).toNat

/-- R190: the Paeth predictor returns whichever of a, b, c is nearest to p = a + b − c, ties in the order a, b, c. -/
def Obligations.PaethPredictorIsTheNearest : Prop :=
  ∀ a b c : Byte,
    let p : Int := (a.toNat : Int) + b.toNat - c.toNat
    let d := fun x : Byte => (p - (x.toNat : Int)).natAbs
    let r := paethPredictor a b c
    (r = a ∨ r = b ∨ r = c) ∧ d r ≤ d a ∧ d r ≤ d b ∧ d r ≤ d c ∧
      (d a ≤ d b → d a ≤ d c → r = a) ∧ (d b < d a → d b ≤ d c → r = b) ∧ (d c < d a → d c < d b → r = c)

/-- R191: the distances without p, and what the tie-breaks can decide. -/
def Obligations.PaethEquivalentForms : Prop :=
  ∀ a b c : Byte,
    let p : Int := (a.toNat : Int) + b.toNat - c.toNat
    let pa := (p - (a.toNat : Int)).natAbs
    let pb := (p - (b.toNat : Int)).natAbs
    let pc := (p - (c.toNat : Int)).natAbs
    pa = ((b.toNat : Int) - c.toNat).natAbs ∧ pb = ((a.toNat : Int) - c.toNat).natAbs ∧
      pc = ((a.toNat : Int) + b.toNat - 2 * c.toNat).natAbs ∧
      (pa = pb → a ≠ b → pc = 0 ∧ paethPredictor a b c = c) ∧
      paethPredictor 3 0 1 = 3 ∧ paethPredictor 0 3 1 = 3

/-! ### RESIZE -/

/-- R214 to R217: RESIZE to other dimensions. Every byte of the target grid is the blend of four source samples of its channel,
rounded once; bytes beyond the target grid, and all else but DW, DH and DONE, are unchanged. -/
def Obligations.ResizeBlendsFourSamples : Prop :=
  ∀ s : State,
    let sw := s.regs.sw.toNat
    let sh := s.regs.sh.toNat
    let dw := s.regs.tw.toNat
    let dh := s.regs.th.toNat
    s.ready = true → Memory.wf s.gdst.cells = true → 0 < sw → 0 < sh → 0 < dw → 0 < dh →
      4 * sw * sh ≤ s.cfg.gridCap.toNat → 4 * dw * dh ≤ s.cfg.gridCap.toNat → ¬(dw = sw ∧ dh = sh) →
        ∃ g,
          exec .resize s =
              .next
                { s with
                  gdst := g
                  regs := { s.regs with dw := s.regs.tw, dh := s.regs.th }
                  status := doneStatus s.status } ∧
            (∀ x y c, x < dw → y < dh → c < 4 →
              g.read ((y * dw + x) * 4 + c) =
                blended s.cfg.roundTie (fun i j => ((s.gsrc.read ((j * sw + i) * 4 + c)).toNat : Int)) sw sh dw dh x y) ∧
            ∀ a, 4 * dw * dh ≤ a → g.read a = s.gdst.read a

/-- R212: RESIZE to the source's own dimensions is a copy, and the general path would give the same bytes. -/
def Obligations.IdentityResizeCopies : Prop :=
  (∀ s : State,
      let sw := s.regs.sw.toNat
      let sh := s.regs.sh.toNat
      s.ready = true → Memory.wf s.gdst.cells = true → 0 < sw → 0 < sh → s.regs.tw = s.regs.sw → s.regs.th = s.regs.sh →
        4 * sw * sh ≤ s.cfg.gridCap.toNat →
          ∃ g,
            exec .resize s =
                .next
                  { s with
                    gdst := g
                    regs := { s.regs with dw := s.regs.sw, dh := s.regs.sh }
                    status := doneStatus s.status } ∧
              (∀ a, a < 4 * sw * sh → g.read a = s.gsrc.read a) ∧ ∀ a, 4 * sw * sh ≤ a → g.read a = s.gdst.read a) ∧
    ∀ (tie : RoundTie) (src : Buffer) (sw sh x y c : Nat),
      x < sw → y < sh → c < 4 → resampled tie src sw sh sw sh x y c = src.read ((y * sw + x) * 4 + c)

/-- R213: the operand checks of RESIZE: the zero mask first, also in the identity case, then the source grid, then the target
grid. -/
def Obligations.ResizeChecksItsOperands : Prop :=
  ∀ s : State,
    let sw := s.regs.sw.toNat
    let sh := s.regs.sh.toNat
    let dw := s.regs.tw.toNat
    let dh := s.regs.th.toNat
    s.ready = true →
      (sw = 0 ∨ sh = 0 ∨ dw = 0 ∨ dh = 0 →
          ∃ t m,
            exec .resize s = .next t ∧ records t 9 0 m ∧ m < 16 ∧ (m.testBit 0 = true ↔ sw = 0) ∧
              (m.testBit 1 = true ↔ sh = 0) ∧ (m.testBit 2 = true ↔ dw = 0) ∧ (m.testBit 3 = true ↔ dh = 0)) ∧
        (0 < sw → 0 < sh → 0 < dw → 0 < dh →
          (s.cfg.gridCap.toNat < 4 * sw * sh → ∃ t, exec .resize s = .next t ∧ records t 8 0 0) ∧
            (4 * sw * sh ≤ s.cfg.gridCap.toNat → s.cfg.gridCap.toNat < 4 * dw * dh →
              ∃ t, exec .resize s = .next t ∧ records t 8 0 1))

/-- R220 on one axis: the numerator's range, the floor's range, both sample indexes inside the source, the weight in [0, D). -/
def Obligations.ResampleIndexesStayInside : Prop :=
  ∀ size target t : Nat,
    0 < size → t < target →
      let n := axisNumerator size target t
      let a := axis size target t
      (size : Int) - target ≤ n ∧ n ≤ (2 * (target : Int) - 1) * size - target ∧ -1 ≤ fdiv n a.d ∧
        fdiv n a.d ≤ (size : Int) - 1 ∧ 0 ≤ a.i0 ∧ a.i0 ≤ (size : Int) - 1 ∧ 0 ≤ a.i1 ∧ a.i1 ≤ (size : Int) - 1 ∧
        0 ≤ a.f ∧ a.f < a.d

/-- 43_resampler.md R219, R220: a blend of four bytes, rounded either way, lies in [0, 255], so the byte clamp never alters
it. -/
def Obligations.BlendNeverNeedsTheClamp : Prop :=
  ∀ (tie : RoundTie) (sw sh dw dh x y : Nat) (p00 p10 p01 p11 : Byte),
    0 < sw → 0 < sh → x < dw → y < dh →
      let ax := axis sw dw x
      let ay := axis sh dh y
      let v := roundTie tie (blend ax ay p00.toNat p10.toNat p01.toNat p11.toNat) (ax.d * ay.d)
      0 ≤ v ∧ v ≤ 255 ∧ ((clampByte v).toNat : Int) = v

/-- 43_resampler.md R221: a channel that is constant over the source is that constant over the target. -/
def Obligations.ConstantChannelStaysConstant : Prop :=
  ∀ (tie : RoundTie) (src : Buffer) (sw sh dw dh c : Nat) (v : Byte),
    0 < sw → 0 < sh → c < 4 → (∀ i j, i < sw → j < sh → src.read ((j * sw + i) * 4 + c) = v) →
      ∀ x y, x < dw → y < dh → resampled tie src sw sh dw dh x y c = v

/-- R218: the rounding gives a nearest integer; an exact half goes up under HALF_UP, which is fdiv(2·num + den, 2·den), and to
the even neighbour under HALF_EVEN. -/
def Obligations.RoundingIsToNearest : Prop :=
  ∀ num den : Int,
    0 ≤ num → 0 < den →
      (∀ tie, 2 * (num - roundTie tie num den * den) ≤ den ∧ -den ≤ 2 * (num - roundTie tie num den * den)) ∧
        roundTie .halfUp num den = fdiv (2 * num + den) (2 * den) ∧
        (∀ q, 2 * (num - q * den) = den →
          roundTie .halfUp num den = q + 1 ∧ roundTie .halfEven num den = if q % 2 = 0 then q else q + 1)

/-- 43_resampler.md R225: what RESIZE produces depends only on SW, SH, TW, TH, GSRC[0 .. 4·SW·SH) and ROUND_TIE. -/
def Obligations.ResizeDependsOnlyOnItsOperands : Prop :=
  ∀ s u t v : State,
    s.ready = true → u.ready = true → Memory.wf s.gdst.cells = true → Memory.wf u.gdst.cells = true →
      u.regs.sw = s.regs.sw → u.regs.sh = s.regs.sh → u.regs.tw = s.regs.tw → u.regs.th = s.regs.th →
        u.cfg.roundTie = s.cfg.roundTie →
          (∀ a, a < 4 * s.regs.sw.toNat * s.regs.sh.toNat → u.gsrc.read a = s.gsrc.read a) →
            exec .resize s = .next t → exec .resize u = .next v → t.status.err = false → v.status.err = false →
              v.regs.dw = t.regs.dw ∧ v.regs.dh = t.regs.dh ∧
                ∀ a, a < 4 * s.regs.tw.toNat * s.regs.th.toNat → v.gdst.read a = t.gdst.read a

/-! ### PACK, EMIT and CRC -/

/-- R241: PACK. The two capacity checks in order; else every row of the grid behind a tag 0, and RLEN. -/
def Obligations.PackPrefixesEveryRow : Prop :=
  decode (.cmd 0x00000004) = .pack ∧
    ∀ s : State,
      let W := s.regs.dw.toNat
      let H := s.regs.dh.toNat
      s.ready = true → Memory.wf s.rbuf.cells = true →
        (s.cfg.gridCap.toNat < 4 * W * H → ∃ t, exec .pack s = .next t ∧ records t 8 0 0) ∧
          (4 * W * H ≤ s.cfg.gridCap.toNat → s.cfg.rbufCap.toNat < H * (1 + 4 * W) →
            ∃ t, exec .pack s = .next t ∧ records t 8 0 1) ∧
          (4 * W * H ≤ s.cfg.gridCap.toNat → H * (1 + 4 * W) ≤ s.cfg.rbufCap.toNat →
            ∃ g,
              exec .pack s =
                  .next
                    { s with
                      rbuf := g
                      regs := { s.regs with rlen := BitVec.ofNat 32 (H * (1 + 4 * W)) }
                      status := doneStatus s.status } ∧
                (∀ y, y < H →
                  g.read (y * (1 + 4 * W)) = 0x00 ∧
                    ∀ i, i < 4 * W → g.read (y * (1 + 4 * W) + 1 + i) = s.gdst.read (y * (4 * W) + i)) ∧
                ∀ a, H * (1 + 4 * W) ≤ a → g.read a = s.rbuf.read a)

/-- 44_chunk_writer_crc.md R245, R251: EMIT. The two checks in order; else the file of 57 + ZLEN bytes, field by field, and
FLEN. -/
def Obligations.EmitLaysOutTheFile : Prop :=
  decode (.cmd 0x00000005) = .emit ∧
    ∀ s : State,
      let Z := s.regs.zlen.toNat
      s.ready = true → Memory.wf s.fbuf.cells = true →
        (s.cfg.zbufCap.toNat < Z → ∃ t, exec .emit s = .next t ∧ records t 9 0 0) ∧
          (Z ≤ s.cfg.zbufCap.toNat → s.cfg.fbufCap.toNat < 57 + Z → ∃ t, exec .emit s = .next t ∧ records t 8 0 0) ∧
          (Z ≤ s.cfg.zbufCap.toNat → 57 + Z ≤ s.cfg.fbufCap.toNat →
            ∃ g,
              exec .emit s =
                  .next
                    { s with
                      fbuf := g
                      regs := { s.regs with flen := BitVec.ofNat 32 (57 + Z) }
                      status := doneStatus s.status } ∧
                g.readBytes 0 8 = [0x89, 0x50, 0x4E, 0x47, 0x0D, 0x0A, 0x1A, 0x0A] ∧
                g.readBytes 8 4 = [0x00, 0x00, 0x00, 0x0D] ∧ g.readBytes 12 4 = [0x49, 0x48, 0x44, 0x52] ∧
                g.readBytes 16 4 = be32 s.regs.dw ∧ g.readBytes 20 4 = be32 s.regs.dh ∧
                g.readBytes 24 5 = [0x08, 0x06, 0x00, 0x00, 0x00] ∧
                g.readBytes 29 4 = be32 (crc32 (g.readBytes 12 17)) ∧ g.readBytes 33 4 = be32 s.regs.zlen ∧
                g.readBytes 37 4 = [0x49, 0x44, 0x41, 0x54] ∧ g.readBytes 41 Z = s.zbuf.readBytes 0 Z ∧
                g.readBytes (41 + Z) 4 = be32 (crc32 (g.readBytes 37 (4 + Z))) ∧
                g.readBytes (45 + Z) 4 = [0x00, 0x00, 0x00, 0x00] ∧
                g.readBytes (49 + Z) 4 = [0x49, 0x45, 0x4E, 0x44] ∧
                g.readBytes (53 + Z) 4 = [0xAE, 0x42, 0x60, 0x82] ∧ ∀ a, 57 + Z ≤ a → g.read a = s.fbuf.read a)

/-- R250: CRC. The two checks in order, the sum unbounded; else CRCVAL is the checksum of the range, 0 for an empty one. -/
def Obligations.CrcCommandChecksumsARange : Prop :=
  decode (.cmd 0x00000006) = .crc ∧
    ∀ s : State,
      s.ready = true →
        (s.cfg.fbufCap.toNat < s.regs.flen.toNat → ∃ t, exec .crc s = .next t ∧ records t 9 0 0) ∧
          (s.regs.flen.toNat ≤ s.cfg.fbufCap.toNat → s.regs.flen.toNat < s.regs.coff.toNat + s.regs.clen.toNat →
            ∃ t, exec .crc s = .next t ∧ records t 9 0 1) ∧
          (s.regs.flen.toNat ≤ s.cfg.fbufCap.toNat → s.regs.coff.toNat + s.regs.clen.toNat ≤ s.regs.flen.toNat →
            ∃ v,
              exec .crc s =
                  .next { s with regs := { s.regs with crcVal := v }, status := doneStatus s.status } ∧
                v = crc32 (s.fbuf.readBytes s.regs.coff.toNat s.regs.clen.toNat) ∧ (s.regs.clen = 0 → v = 0))

/-- 44_chunk_writer_crc.md R248: the check values of the checksum. -/
def Obligations.ChecksumCheckValues : Prop :=
  crc32 [] = 0x00000000 ∧ crc32 [0x61] = 0xE8B7BE43 ∧
    crc32 [0x31, 0x32, 0x33, 0x34, 0x35, 0x36, 0x37, 0x38, 0x39] = 0xCBF43926 ∧
    crc32 [0x49, 0x45, 0x4E, 0x44] = 0xAE426082

/-- R249: the table form is equivalent to the bit-serial form, byte by byte, with the table's listed entries. -/
def Obligations.ChecksumTableForm : Prop :=
  (∀ (c : Word) (b : Byte), crcStep c b = crcTable ((c ^^^ b.setWidth 32).setWidth 8) ^^^ (c >>> 8)) ∧
    crcTable 0 = 0x00000000 ∧ crcTable 1 = 0x77073096 ∧ crcTable 2 = 0xEE0E612C ∧ crcTable 3 = 0x990951BA ∧
    crcTable 128 = 0xEDB88320 ∧ crcTable 255 = 0x2D02EF8D

/-- 44_chunk_writer_crc.md R254: after EMIT, the checksum of the tag and payload of each of the three chunks is the trailer
that follows them. -/
def Obligations.EmittedTrailersVerify : Prop :=
  ∀ s t : State,
    s.ready = true → Memory.wf s.fbuf.cells = true → exec .emit s = .next t → t.status.err = false →
      ∀ p ∈ [8, 33, 45 + s.regs.zlen.toNat],
        crc32 (t.fbuf.readBytes (p + 4) (4 + (t.fbuf.readBE32 p).toNat)) =
          t.fbuf.readBE32 (p + 8 + (t.fbuf.readBE32 p).toNat)

/-! ### Round trips -/

/-- 42_scanline_reconstructor.md R194: RECON of what PACK built, with HDR_WIDTH = DW and HDR_HEIGHT = DH, gives the grid back
byte for byte. -/
def Obligations.PackThenReconRestoresTheGrid : Prop :=
  ∀ s : State,
    let W := s.regs.dw.toNat
    let H := s.regs.dh.toNat
    s.ready = true → Memory.wf s.rbuf.cells = true → Memory.wf s.gsrc.cells = true → 4 * W * H ≤ s.cfg.gridCap.toNat →
      H * (1 + 4 * W) ≤ s.cfg.rbufCap.toNat →
        ∃ t u,
          exec .pack s = .next t ∧
            exec .recon { t with regs := { t.regs with hdrWidth := s.regs.dw, hdrHeight := s.regs.dh } } = .next u ∧
            u.status.err = false ∧ u.regs.sw = s.regs.dw ∧ u.regs.sh = s.regs.dh ∧
            ∀ a, a < 4 * W * H → u.gsrc.read a = s.gdst.read a

/-- 44_chunk_writer_crc.md R253: PARSE of what EMIT wrote finds the header, returns to ZBUF exactly the bytes EMIT took from it,
and stops at the terminal chunk. -/
def Obligations.EmitThenParseRestoresTheStream : Prop :=
  ∀ s : State,
    s.ready = true → Memory.wf s.fbuf.cells = true → Memory.wf s.zbuf.cells = true →
      s.regs.zlen.toNat ≤ s.cfg.zbufCap.toNat → 57 + s.regs.zlen.toNat ≤ s.cfg.fbufCap.toNat →
        ∃ t u,
          exec .emit s = .next t ∧ exec .parse t = .next u ∧ u.status.err = false ∧ u.status.hdrSeen = true ∧
            u.status.endSeen = true ∧ u.regs.hdrWidth = s.regs.dw ∧ u.regs.hdrHeight = s.regs.dh ∧
            u.regs.zlen = s.regs.zlen ∧ ∀ a, u.zbuf.read a = s.zbuf.read a

/-- R253: the whole round trip through a host compressor and a decompressor that inverts it. -/
def Obligations.RoundTripRestoresTheImage : Prop :=
  ∀ (s : State) (compress decompress : List Byte → List Byte),
    let W := s.regs.dw.toNat
    let H := s.regs.dh.toNat
    let z := compress (packStream s.gdst W H)
    s.ready = true → s.inv = true → (∀ l, decompress (compress l) = l) → 4 * W * H ≤ s.cfg.gridCap.toNat →
      H * (1 + 4 * W) ≤ s.cfg.rbufCap.toNat → z.length ≤ s.cfg.zbufCap.toNat → 57 + z.length ≤ s.cfg.fbufCap.toNat →
        ∃ t₁ t₂ t₃ t₄,
          exec .pack s = .next t₁ ∧ exec .emit (hostCompresses compress t₁) = .next t₂ ∧ exec .parse t₂ = .next t₃ ∧
            exec .recon (hostDecompresses decompress t₃) = .next t₄ ∧ t₄.status.err = false ∧
            t₄.status.endSeen = true ∧ t₄.regs.hdrWidth = s.regs.dw ∧ t₄.regs.hdrHeight = s.regs.dh ∧
            t₄.regs.sw = s.regs.dw ∧ t₄.regs.sh = s.regs.dh ∧ ∀ a, a < 4 * W * H → t₄.gsrc.read a = s.gdst.read a

/-! ### The whole machine -/

/-- The invariant holds after reset, whatever the implementation's parameters and the host's script. -/
def Obligations.ResetMeetsTheInvariant : Prop :=
  ∀ (c : Config) (script : List Input), State.inv { State.reset with cfg := c, inputs := script } = true

/-- Every step from a state that meets the invariant leads to one that meets it: buffers canonical and within capacity, the
byte-wide registers' upper bits 0, HDR_SEEN only over an accepted header, the flags and error registers consistent, BUSY just
while a command is under way, the cursors in bounds. That the byte-wide registers' upper bits stay 0 after an error too is the
model's reading (log 5). -/
def Obligations.StepKeepsTheInvariant : Prop :=
  ∀ s t : State, s.inv = true → step s = .next t → t.inv = true

/-- From a state that meets the invariant, with a host that names only bytes that exist, no run stops. That the model waits with the
host's actions while a command is under way is its own choice (log 2). -/
def Obligations.RunsNeverStop : Prop :=
  ∀ (n : Nat) (s : State), s.inv = true → (∀ a ∈ s.inputs, inputInRange s.cfg a = true) → safeFor n s

/-- 00_scope.md R6: no step changes the implementation's parameters. -/
def Obligations.ParametersNeverChange : Prop := ∀ s t : State, step s = .next t → t.cfg = s.cfg

/-- 70_reset_and_hazards.md R312, U1: where a command's operands are in place, its result does not depend on the unspecified
values of the bytes of its input buffer that nothing has written. -/
def Obligations.ResultsDoNotDependOnUnwrittenBytes : Prop :=
  ∀ (s t : State) (i : Instr) (o : Origin) (seed : Nat),
    (i, o) ∈ operations → s.ready = true → operandsInPlace i s = true → exec i s = .next t →
      exec i (reseed (inputBuffer o) seed s) = .next (reseed (inputBuffer o) seed t)
end

