-- ==== Sys2Proof/Laws/Memory.lean ====
section
/-! SUPPORT. The laws of one buffer: read after write, the canonical form, the capacity bound, byte strings. -/

namespace Sys2Proof.Machine

/-! ### Memory -/

@[simp] theorem Memory.read_nil (a : Nat) : Memory.read [] a = none := rfl

theorem Memory.read_write (m : Memory) (a k : Nat) (v : Byte) (h : Memory.wf m = true) :
    Memory.read (Memory.write m a v) k = if k = a then some v else Memory.read m k := by
  induction m with
  | nil => simp [Memory.write, Memory.read]
  | cons c m ih =>
    obtain ⟨b, w⟩ := c
    have hm : Memory.wf m = true := by
      cases m with
      | nil => rfl
      | cons d m => simp only [Memory.wf, Bool.and_eq_true] at h; exact h.2
    rcases Nat.lt_trichotomy a b with hlt | heq | hgt
    · simp [Memory.write, hlt, Memory.read]
    · subst heq
      simp only [Memory.write, Nat.lt_irrefl, if_false, if_true, Memory.read]
      split <;> simp_all
    · simp only [Memory.write, Nat.lt_asymm hgt, if_false, (Nat.ne_of_gt hgt), Memory.read, ih hm]
      split
      · rename_i hk; subst hk; simp [Nat.ne_of_lt hgt]
      · rfl

/-- The head of a written memory is the head of the old one, or the written address. -/
theorem Memory.write_head (m : Memory) (a : Nat) (v : Byte) :
    ∃ c rest, Memory.write m a v = c :: rest ∧ (c.1 = a ∨ ∃ d rest', m = d :: rest' ∧ c.1 = d.1) := by
  cases m with
  | nil => exact ⟨(a, v), [], rfl, .inl rfl⟩
  | cons d m =>
    obtain ⟨b, w⟩ := d
    simp only [Memory.write]
    split
    · exact ⟨_, _, rfl, .inl rfl⟩
    · split
      · exact ⟨_, _, rfl, .inl rfl⟩
      · exact ⟨_, _, rfl, .inr ⟨_, _, rfl, rfl⟩⟩

/-- A write keeps the canonical form. -/
theorem Memory.wf_write (m : Memory) (a : Nat) (v : Byte) (h : Memory.wf m = true) :
    Memory.wf (Memory.write m a v) = true := by
  induction m with
  | nil => rfl
  | cons c m ih =>
    obtain ⟨b, w⟩ := c
    have hm : Memory.wf m = true := by
      cases m with
      | nil => rfl
      | cons d m => simp only [Memory.wf, Bool.and_eq_true] at h; exact h.2
    rcases Nat.lt_trichotomy a b with hlt | heq | hgt
    · simp only [Memory.write, hlt, if_true, Memory.wf, decide_true, Bool.true_and]; exact h
    · subst heq
      simp only [Memory.write, Nat.lt_irrefl, if_false, if_true]
      cases m with
      | nil => rfl
      | cons d m => simpa only [Memory.wf] using h
    · simp only [Memory.write, Nat.lt_asymm hgt, if_false, Nat.ne_of_gt hgt]
      obtain ⟨c, rest, heq, hc⟩ := Memory.write_head m a v
      have hw := ih hm
      rw [heq] at hw ⊢
      simp only [Memory.wf, Bool.and_eq_true, decide_eq_true_eq]
      refine ⟨?_, hw⟩
      rcases hc with hc | ⟨d, rest', hd, hc⟩
      · omega
      · subst hd
        simp only [Memory.wf, Bool.and_eq_true, decide_eq_true_eq] at h
        omega

/-- A write below a bound keeps every listed address below it. -/
theorem Memory.below_write (m : Memory) (bound a : Nat) (v : Byte) (h : Memory.below m bound = true) (ha : a < bound) :
    Memory.below (Memory.write m a v) bound = true := by
  induction m with
  | nil => simp [Memory.write, Memory.below, ha]
  | cons c m ih =>
    obtain ⟨b, w⟩ := c
    simp only [Memory.below, List.all_cons, Bool.and_eq_true, decide_eq_true_eq] at h ih
    simp only [Memory.write]
    split
    · simp [Memory.below, ha, h.1, h.2]
    · split
      · simp [Memory.below, ha, h.2]
      · simp only [Memory.below, List.all_cons, Bool.and_eq_true, decide_eq_true_eq]
        exact ⟨h.1, ih h.2⟩

/-! ### Buffers -/

@[simp] theorem Buffer.write_seed (b : Buffer) (a : Nat) (v : Byte) : (b.write a v).seed = b.seed := rfl

@[simp] theorem Buffer.unspecified_cells (n : Nat) : (Buffer.unspecified n).cells = [] := rfl

@[simp] theorem Buffer.unspecified_seed (n : Nat) : (Buffer.unspecified n).seed = n := rfl

@[simp] theorem Buffer.unspecified_read (n a : Nat) : (Buffer.unspecified n).read a = Config.freeByte n a := rfl

theorem Buffer.read_write (b : Buffer) (a k : Nat) (v : Byte) (h : Memory.wf b.cells = true) :
    (b.write a v).read k = if k = a then v else b.read k := by
  simp only [Buffer.read, Buffer.write, Memory.read_write b.cells a k v h]
  split <;> rfl

@[simp] theorem Buffer.writeBytes_seed (b : Buffer) (a : Nat) (l : List Byte) : (b.writeBytes a l).seed = b.seed := by
  induction l generalizing b a with
  | nil => rfl
  | cons v vs ih => simp [Buffer.writeBytes, ih]

theorem Buffer.writeBytes_wf (b : Buffer) (a : Nat) (l : List Byte) (h : Memory.wf b.cells = true) :
    Memory.wf (b.writeBytes a l).cells = true := by
  induction l generalizing b a with
  | nil => exact h
  | cons v vs ih => exact ih (b.write a v) (a + 1) (Memory.wf_write b.cells a v h)

theorem Buffer.writeBytes_below (b : Buffer) (a bound : Nat) (l : List Byte) (h : Memory.below b.cells bound = true)
    (ha : a + l.length ≤ bound) : Memory.below (b.writeBytes a l).cells bound = true := by
  induction l generalizing b a with
  | nil => exact h
  | cons v vs ih =>
    simp only [List.length_cons] at ha
    exact ih (b.write a v) (a + 1) (Memory.below_write b.cells bound a v h (by omega)) (by omega)

/-- What a written byte string reads as (20_memory.md R68): its bytes where it lies, the old ones elsewhere. -/
theorem Buffer.read_writeBytes (b : Buffer) (a k : Nat) (l : List Byte) (h : Memory.wf b.cells = true) :
    (b.writeBytes a l).read k = if a ≤ k ∧ k < a + l.length then l.getD (k - a) 0 else b.read k := by
  induction l generalizing b a with
  | nil => simp [Buffer.writeBytes]
  | cons v vs ih =>
    simp only [Buffer.writeBytes, ih (b.write a v) (a + 1) (Memory.wf_write b.cells a v h), Buffer.read_write b a k v h,
      List.length_cons]
    rcases Nat.lt_trichotomy k a with hk | hk | hk
    · rw [if_neg (by omega), if_neg (by omega), if_neg (by omega)]
    · subst hk
      rw [if_neg (by omega), if_pos rfl, if_pos (by omega)]; simp
    · have e : k - a = (k - (a + 1)) + 1 := by omega
      by_cases hlt : k < a + (vs.length + 1)
      · rw [if_pos (by omega), if_pos (by omega), e, List.getD_cons_succ]
      · rw [if_neg (by omega), if_neg (by omega), if_neg (by omega)]

@[simp] theorem Buffer.readBytes_length (b : Buffer) (a n : Nat) : (b.readBytes a n).length = n := by
  simp [Buffer.readBytes]

theorem Buffer.readBytes_getD (b : Buffer) (a n i : Nat) (h : i < n) : (b.readBytes a n).getD i 0 = b.read (a + i) := by
  simp [Buffer.readBytes, List.getD, h]

/-- Two buffers that read alike over a range give the same byte string. -/
theorem Buffer.readBytes_congr (b c : Buffer) (a n : Nat) (h : ∀ k, a ≤ k → k < a + n → b.read k = c.read k) :
    b.readBytes a n = c.readBytes a n := by
  simp only [Buffer.readBytes]
  refine List.map_congr_left fun i hi => ?_
  rw [List.mem_range] at hi
  exact h (a + i) (by omega) (by omega)

/-! ### The 32-bit fields -/

@[simp] theorem be32_length (v : Word) : (be32 v).length = 4 := rfl

/-- `BE32(be32(v)) = v` (00_scope.md R12). -/
theorem be32Of_be32 (v : Word) :
    be32Of (v.extractLsb' 24 8) (v.extractLsb' 16 8) (v.extractLsb' 8 8) (v.extractLsb' 0 8) = v := by
  apply BitVec.eq_of_getLsbD_eq
  intro i hi
  have e : be32Of (v.extractLsb' 24 8) (v.extractLsb' 16 8) (v.extractLsb' 8 8) (v.extractLsb' 0 8)
    = ((((v.extractLsb' 24 8 ++ v.extractLsb' 16 8 : BitVec (8 + 8)) ++ v.extractLsb' 8 8 : BitVec (8 + 8 + 8)) ++ v.extractLsb' 0 8 : BitVec (8 + 8 + 8 + 8))) := rfl
  rw [e]
  rw [BitVec.getLsbD_append, BitVec.getLsbD_append, BitVec.getLsbD_append]
  simp only [BitVec.getLsbD_extractLsb']
  by_cases h1 : i < 8
  · simp [h1]
  · by_cases h2 : i < 16
    · have : i - 8 < 8 := by omega
      simp [h1, this]; congr 1; omega
    · by_cases h3 : i < 24
      · have a : ¬ i - 8 < 8 := by omega
        have b : i - 8 - 8 < 8 := by omega
        simp [h1, a, b]; congr 1; omega
      · have a : ¬ i - 8 < 8 := by omega
        have b : ¬ i - 8 - 8 < 8 := by omega
        have c : i - 8 - 8 - 8 < 8 := by omega
        simp [h1, a, b, c]; congr 1; omega
/-- `be32Of` as a number: the big-endian value (00_scope.md R12). -/
theorem be32Of_toNat (b0 b1 b2 b3 : Byte) :
    (be32Of b0 b1 b2 b3).toNat = b0.toNat * 2 ^ 24 + b1.toNat * 2 ^ 16 + b2.toNat * 2 ^ 8 + b3.toNat := by
  have e : (be32Of b0 b1 b2 b3) = ((((b0 ++ b1 : BitVec (8 + 8)) ++ b2 : BitVec (8 + 8 + 8)) ++ b3 : BitVec (8 + 8 + 8 + 8))) := rfl
  rw [e, BitVec.toNat_append, BitVec.toNat_append, BitVec.toNat_append]
  rw [← Nat.shiftLeft_add_eq_or_of_lt b1.isLt, ← Nat.shiftLeft_add_eq_or_of_lt b2.isLt,
    ← Nat.shiftLeft_add_eq_or_of_lt b3.isLt]
  simp only [Nat.shiftLeft_eq]
  omega
end Sys2Proof.Machine
end

