-- ==== Sys2Proof/Laws/State.lean ====
section
/-! SUPPORT. One lemma per field per update of State, so that no later proof unfolds a record update. -/

namespace Sys2Proof.Machine

/-! ### `complete`, field by field -/

@[simp] theorem complete_cfg (s : State) : (complete s).cfg = s.cfg := rfl
@[simp] theorem complete_regs (s : State) : (complete s).regs = s.regs := rfl
@[simp] theorem complete_status (s : State) : (complete s).status = { s.status with busy := false, done := true } := rfl
@[simp] theorem complete_fbuf (s : State) : (complete s).fbuf = s.fbuf := rfl
@[simp] theorem complete_zbuf (s : State) : (complete s).zbuf = s.zbuf := rfl
@[simp] theorem complete_rbuf (s : State) : (complete s).rbuf = s.rbuf := rfl
@[simp] theorem complete_gsrc (s : State) : (complete s).gsrc = s.gsrc := rfl
@[simp] theorem complete_gdst (s : State) : (complete s).gdst = s.gdst := rfl
@[simp] theorem complete_seq (s : State) : (complete s).seq = .idle := rfl
@[simp] theorem complete_inputs (s : State) : (complete s).inputs = s.inputs := rfl
@[simp] theorem complete_rdata (s : State) : (complete s).rdata = s.rdata := rfl
@[simp] theorem complete_fresh (s : State) : (complete s).fresh = s.fresh := rfl

/-! ### `acceptCommand`, field by field -/

@[simp] theorem acceptCommand_cfg (s : State) : (acceptCommand s).cfg = s.cfg := rfl
@[simp] theorem acceptCommand_regs (s : State) : (acceptCommand s).regs = s.regs := rfl
@[simp] theorem acceptCommand_status (s : State) : (acceptCommand s).status = { s.status with done := false, busy := true } := rfl
@[simp] theorem acceptCommand_fbuf (s : State) : (acceptCommand s).fbuf = s.fbuf := rfl
@[simp] theorem acceptCommand_zbuf (s : State) : (acceptCommand s).zbuf = s.zbuf := rfl
@[simp] theorem acceptCommand_rbuf (s : State) : (acceptCommand s).rbuf = s.rbuf := rfl
@[simp] theorem acceptCommand_gsrc (s : State) : (acceptCommand s).gsrc = s.gsrc := rfl
@[simp] theorem acceptCommand_gdst (s : State) : (acceptCommand s).gdst = s.gdst := rfl
@[simp] theorem acceptCommand_seq (s : State) : (acceptCommand s).seq = s.seq := rfl
@[simp] theorem acceptCommand_inputs (s : State) : (acceptCommand s).inputs = s.inputs := rfl
@[simp] theorem acceptCommand_rdata (s : State) : (acceptCommand s).rdata = s.rdata := rfl
@[simp] theorem acceptCommand_fresh (s : State) : (acceptCommand s).fresh = s.fresh := rfl

/-! ### `clearError`, field by field -/

@[simp] theorem clearError_cfg (s : State) : (clearError s).cfg = s.cfg := rfl
@[simp] theorem clearError_regs (s : State) : (clearError s).regs = { s.regs with errCode := 0, errPos := 0, errInfo := 0 } := rfl
@[simp] theorem clearError_status (s : State) : (clearError s).status = { s.status with err := false, done := true } := rfl
@[simp] theorem clearError_fbuf (s : State) : (clearError s).fbuf = s.fbuf := rfl
@[simp] theorem clearError_zbuf (s : State) : (clearError s).zbuf = s.zbuf := rfl
@[simp] theorem clearError_rbuf (s : State) : (clearError s).rbuf = s.rbuf := rfl
@[simp] theorem clearError_gsrc (s : State) : (clearError s).gsrc = s.gsrc := rfl
@[simp] theorem clearError_gdst (s : State) : (clearError s).gdst = s.gdst := rfl
@[simp] theorem clearError_seq (s : State) : (clearError s).seq = s.seq := rfl
@[simp] theorem clearError_inputs (s : State) : (clearError s).inputs = s.inputs := rfl
@[simp] theorem clearError_rdata (s : State) : (clearError s).rdata = s.rdata := rfl
@[simp] theorem clearError_fresh (s : State) : (clearError s).fresh = s.fresh := rfl

/-! ### `resetRegisters`, field by field -/

@[simp] theorem resetRegisters_cfg (s : State) : (resetRegisters s).cfg = s.cfg := rfl
@[simp] theorem resetRegisters_regs (s : State) : (resetRegisters s).regs = Regs.zero := rfl
@[simp] theorem resetRegisters_status (s : State) : (resetRegisters s).status = Status.zero := rfl
@[simp] theorem resetRegisters_fbuf (s : State) : (resetRegisters s).fbuf = s.fbuf := rfl
@[simp] theorem resetRegisters_zbuf (s : State) : (resetRegisters s).zbuf = s.zbuf := rfl
@[simp] theorem resetRegisters_rbuf (s : State) : (resetRegisters s).rbuf = s.rbuf := rfl
@[simp] theorem resetRegisters_gsrc (s : State) : (resetRegisters s).gsrc = s.gsrc := rfl
@[simp] theorem resetRegisters_gdst (s : State) : (resetRegisters s).gdst = s.gdst := rfl
@[simp] theorem resetRegisters_seq (s : State) : (resetRegisters s).seq = .idle := rfl
@[simp] theorem resetRegisters_inputs (s : State) : (resetRegisters s).inputs = s.inputs := rfl
@[simp] theorem resetRegisters_rdata (s : State) : (resetRegisters s).rdata = s.rdata := rfl
@[simp] theorem resetRegisters_fresh (s : State) : (resetRegisters s).fresh = s.fresh := rfl

/-! ### `hardwareReset`, field by field -/

@[simp] theorem hardwareReset_cfg (s : State) : (hardwareReset s).cfg = s.cfg := rfl
@[simp] theorem hardwareReset_regs (s : State) : (hardwareReset s).regs = Regs.zero := rfl
@[simp] theorem hardwareReset_status (s : State) : (hardwareReset s).status = Status.zero := rfl
@[simp] theorem hardwareReset_fbuf (s : State) : (hardwareReset s).fbuf = Buffer.unspecified s.fresh := rfl
@[simp] theorem hardwareReset_zbuf (s : State) : (hardwareReset s).zbuf = Buffer.unspecified (s.fresh + 1) := rfl
@[simp] theorem hardwareReset_rbuf (s : State) : (hardwareReset s).rbuf = Buffer.unspecified (s.fresh + 2) := rfl
@[simp] theorem hardwareReset_gsrc (s : State) : (hardwareReset s).gsrc = Buffer.unspecified (s.fresh + 3) := rfl
@[simp] theorem hardwareReset_gdst (s : State) : (hardwareReset s).gdst = Buffer.unspecified (s.fresh + 4) := rfl
@[simp] theorem hardwareReset_seq (s : State) : (hardwareReset s).seq = .idle := rfl
@[simp] theorem hardwareReset_inputs (s : State) : (hardwareReset s).inputs = s.inputs := rfl
@[simp] theorem hardwareReset_rdata (s : State) : (hardwareReset s).rdata = s.rdata := rfl
@[simp] theorem hardwareReset_fresh (s : State) : (hardwareReset s).fresh = s.fresh + 5 := rfl

/-! ### `clearSeen`, field by field -/

@[simp] theorem clearSeen_cfg (s : State) : (clearSeen s).cfg = s.cfg := rfl
@[simp] theorem clearSeen_regs (s : State) : (clearSeen s).regs = s.regs := rfl
@[simp] theorem clearSeen_status (s : State) : (clearSeen s).status = { s.status with hdrSeen := false, endSeen := false } := rfl
@[simp] theorem clearSeen_fbuf (s : State) : (clearSeen s).fbuf = s.fbuf := rfl
@[simp] theorem clearSeen_zbuf (s : State) : (clearSeen s).zbuf = s.zbuf := rfl
@[simp] theorem clearSeen_rbuf (s : State) : (clearSeen s).rbuf = s.rbuf := rfl
@[simp] theorem clearSeen_gsrc (s : State) : (clearSeen s).gsrc = s.gsrc := rfl
@[simp] theorem clearSeen_gdst (s : State) : (clearSeen s).gdst = s.gdst := rfl
@[simp] theorem clearSeen_seq (s : State) : (clearSeen s).seq = s.seq := rfl
@[simp] theorem clearSeen_inputs (s : State) : (clearSeen s).inputs = s.inputs := rfl
@[simp] theorem clearSeen_rdata (s : State) : (clearSeen s).rdata = s.rdata := rfl
@[simp] theorem clearSeen_fresh (s : State) : (clearSeen s).fresh = s.fresh := rfl

/-! ### `setHdrSeen`, field by field -/

@[simp] theorem setHdrSeen_cfg (s : State) : (setHdrSeen s).cfg = s.cfg := rfl
@[simp] theorem setHdrSeen_regs (s : State) : (setHdrSeen s).regs = s.regs := rfl
@[simp] theorem setHdrSeen_status (s : State) : (setHdrSeen s).status = { s.status with hdrSeen := true } := rfl
@[simp] theorem setHdrSeen_fbuf (s : State) : (setHdrSeen s).fbuf = s.fbuf := rfl
@[simp] theorem setHdrSeen_zbuf (s : State) : (setHdrSeen s).zbuf = s.zbuf := rfl
@[simp] theorem setHdrSeen_rbuf (s : State) : (setHdrSeen s).rbuf = s.rbuf := rfl
@[simp] theorem setHdrSeen_gsrc (s : State) : (setHdrSeen s).gsrc = s.gsrc := rfl
@[simp] theorem setHdrSeen_gdst (s : State) : (setHdrSeen s).gdst = s.gdst := rfl
@[simp] theorem setHdrSeen_seq (s : State) : (setHdrSeen s).seq = s.seq := rfl
@[simp] theorem setHdrSeen_inputs (s : State) : (setHdrSeen s).inputs = s.inputs := rfl
@[simp] theorem setHdrSeen_rdata (s : State) : (setHdrSeen s).rdata = s.rdata := rfl
@[simp] theorem setHdrSeen_fresh (s : State) : (setHdrSeen s).fresh = s.fresh := rfl

/-! ### `setEndSeen`, field by field -/

@[simp] theorem setEndSeen_cfg (s : State) : (setEndSeen s).cfg = s.cfg := rfl
@[simp] theorem setEndSeen_regs (s : State) : (setEndSeen s).regs = s.regs := rfl
@[simp] theorem setEndSeen_status (s : State) : (setEndSeen s).status = { s.status with endSeen := true } := rfl
@[simp] theorem setEndSeen_fbuf (s : State) : (setEndSeen s).fbuf = s.fbuf := rfl
@[simp] theorem setEndSeen_zbuf (s : State) : (setEndSeen s).zbuf = s.zbuf := rfl
@[simp] theorem setEndSeen_rbuf (s : State) : (setEndSeen s).rbuf = s.rbuf := rfl
@[simp] theorem setEndSeen_gsrc (s : State) : (setEndSeen s).gsrc = s.gsrc := rfl
@[simp] theorem setEndSeen_gdst (s : State) : (setEndSeen s).gdst = s.gdst := rfl
@[simp] theorem setEndSeen_seq (s : State) : (setEndSeen s).seq = s.seq := rfl
@[simp] theorem setEndSeen_inputs (s : State) : (setEndSeen s).inputs = s.inputs := rfl
@[simp] theorem setEndSeen_rdata (s : State) : (setEndSeen s).rdata = s.rdata := rfl
@[simp] theorem setEndSeen_fresh (s : State) : (setEndSeen s).fresh = s.fresh := rfl

/-! ### `beginWalk`, field by field -/

@[simp] theorem beginWalk_cfg (s : State) : (beginWalk s).cfg = s.cfg := rfl
@[simp] theorem beginWalk_regs (s : State) : (beginWalk s).regs = s.regs := rfl
@[simp] theorem beginWalk_status (s : State) : (beginWalk s).status = { s.status with hdrSeen := false, endSeen := false } := rfl
@[simp] theorem beginWalk_fbuf (s : State) : (beginWalk s).fbuf = s.fbuf := rfl
@[simp] theorem beginWalk_zbuf (s : State) : (beginWalk s).zbuf = s.zbuf := rfl
@[simp] theorem beginWalk_rbuf (s : State) : (beginWalk s).rbuf = s.rbuf := rfl
@[simp] theorem beginWalk_gsrc (s : State) : (beginWalk s).gsrc = s.gsrc := rfl
@[simp] theorem beginWalk_gdst (s : State) : (beginWalk s).gdst = s.gdst := rfl
@[simp] theorem beginWalk_seq (s : State) : (beginWalk s).seq = .parse 8 0 := rfl
@[simp] theorem beginWalk_inputs (s : State) : (beginWalk s).inputs = s.inputs := rfl
@[simp] theorem beginWalk_rdata (s : State) : (beginWalk s).rdata = s.rdata := rfl
@[simp] theorem beginWalk_fresh (s : State) : (beginWalk s).fresh = s.fresh := rfl

/-! ### `beginRows`, field by field -/

@[simp] theorem beginRows_cfg (s : State) : (beginRows s).cfg = s.cfg := rfl
@[simp] theorem beginRows_regs (s : State) : (beginRows s).regs = s.regs := rfl
@[simp] theorem beginRows_status (s : State) : (beginRows s).status = s.status := rfl
@[simp] theorem beginRows_fbuf (s : State) : (beginRows s).fbuf = s.fbuf := rfl
@[simp] theorem beginRows_zbuf (s : State) : (beginRows s).zbuf = s.zbuf := rfl
@[simp] theorem beginRows_rbuf (s : State) : (beginRows s).rbuf = s.rbuf := rfl
@[simp] theorem beginRows_gsrc (s : State) : (beginRows s).gsrc = s.gsrc := rfl
@[simp] theorem beginRows_gdst (s : State) : (beginRows s).gdst = s.gdst := rfl
@[simp] theorem beginRows_seq (s : State) : (beginRows s).seq = .recon 0 (List.replicate (stride s.regs.hdrWidth.toNat) 0) := rfl
@[simp] theorem beginRows_inputs (s : State) : (beginRows s).inputs = s.inputs := rfl
@[simp] theorem beginRows_rdata (s : State) : (beginRows s).rdata = s.rdata := rfl
@[simp] theorem beginRows_fresh (s : State) : (beginRows s).fresh = s.fresh := rfl

/-! ### `loadHeader` writes only the seven HDR registers -/

@[simp] theorem loadHeader_cfg (pos : Nat) (s : State) : (loadHeader pos s).cfg = s.cfg := rfl
@[simp] theorem loadHeader_status (pos : Nat) (s : State) : (loadHeader pos s).status = s.status := rfl
@[simp] theorem loadHeader_fbuf (pos : Nat) (s : State) : (loadHeader pos s).fbuf = s.fbuf := rfl
@[simp] theorem loadHeader_zbuf (pos : Nat) (s : State) : (loadHeader pos s).zbuf = s.zbuf := rfl
@[simp] theorem loadHeader_rbuf (pos : Nat) (s : State) : (loadHeader pos s).rbuf = s.rbuf := rfl
@[simp] theorem loadHeader_gsrc (pos : Nat) (s : State) : (loadHeader pos s).gsrc = s.gsrc := rfl
@[simp] theorem loadHeader_gdst (pos : Nat) (s : State) : (loadHeader pos s).gdst = s.gdst := rfl
@[simp] theorem loadHeader_seq (pos : Nat) (s : State) : (loadHeader pos s).seq = s.seq := rfl
@[simp] theorem loadHeader_inputs (pos : Nat) (s : State) : (loadHeader pos s).inputs = s.inputs := rfl
@[simp] theorem loadHeader_rdata (pos : Nat) (s : State) : (loadHeader pos s).rdata = s.rdata := rfl
@[simp] theorem loadHeader_fresh (pos : Nat) (s : State) : (loadHeader pos s).fresh = s.fresh := rfl
@[simp] theorem loadHeader_errCode (pos : Nat) (s : State) : (loadHeader pos s).regs.errCode = s.regs.errCode := rfl
@[simp] theorem loadHeader_errPos (pos : Nat) (s : State) : (loadHeader pos s).regs.errPos = s.regs.errPos := rfl
@[simp] theorem loadHeader_errInfo (pos : Nat) (s : State) : (loadHeader pos s).regs.errInfo = s.regs.errInfo := rfl
@[simp] theorem loadHeader_flen (pos : Nat) (s : State) : (loadHeader pos s).regs.flen = s.regs.flen := rfl
@[simp] theorem loadHeader_zlen (pos : Nat) (s : State) : (loadHeader pos s).regs.zlen = s.regs.zlen := rfl
@[simp] theorem loadHeader_rlen (pos : Nat) (s : State) : (loadHeader pos s).regs.rlen = s.regs.rlen := rfl
@[simp] theorem loadHeader_sw (pos : Nat) (s : State) : (loadHeader pos s).regs.sw = s.regs.sw := rfl
@[simp] theorem loadHeader_sh (pos : Nat) (s : State) : (loadHeader pos s).regs.sh = s.regs.sh := rfl
@[simp] theorem loadHeader_tw (pos : Nat) (s : State) : (loadHeader pos s).regs.tw = s.regs.tw := rfl
@[simp] theorem loadHeader_th (pos : Nat) (s : State) : (loadHeader pos s).regs.th = s.regs.th := rfl
@[simp] theorem loadHeader_dw (pos : Nat) (s : State) : (loadHeader pos s).regs.dw = s.regs.dw := rfl
@[simp] theorem loadHeader_dh (pos : Nat) (s : State) : (loadHeader pos s).regs.dh = s.regs.dh := rfl
@[simp] theorem loadHeader_coff (pos : Nat) (s : State) : (loadHeader pos s).regs.coff = s.regs.coff := rfl
@[simp] theorem loadHeader_clen (pos : Nat) (s : State) : (loadHeader pos s).regs.clen = s.regs.clen := rfl
@[simp] theorem loadHeader_crcVal (pos : Nat) (s : State) : (loadHeader pos s).regs.crcVal = s.regs.crcVal := rfl

/-! ### Error entry: what holds of every origin -/

@[simp] theorem unspecifyOutputs_cfg (o : Origin) (s : State) : (unspecifyOutputs o s).cfg = s.cfg := by cases o <;> rfl
@[simp] theorem unspecifyOutputs_inputs (o : Origin) (s : State) : (unspecifyOutputs o s).inputs = s.inputs := by cases o <;> rfl
@[simp] theorem unspecifyOutputs_rdata (o : Origin) (s : State) : (unspecifyOutputs o s).rdata = s.rdata := by cases o <;> rfl
@[simp] theorem raiseError_cfg (o : Origin) (e : Cause) (pos info : Nat) (s : State) :
    (raiseError o e pos info s).cfg = s.cfg := by cases o <;> rfl
@[simp] theorem raiseError_inputs (o : Origin) (e : Cause) (pos info : Nat) (s : State) :
    (raiseError o e pos info s).inputs = s.inputs := by cases o <;> rfl
@[simp] theorem raiseError_rdata (o : Origin) (e : Cause) (pos info : Nat) (s : State) :
    (raiseError o e pos info s).rdata = s.rdata := by cases o <;> rfl
@[simp] theorem raiseError_seq (o : Origin) (e : Cause) (pos info : Nat) (s : State) :
    (raiseError o e pos info s).seq = .idle := rfl
@[simp] theorem raiseError_status (o : Origin) (e : Cause) (pos info : Nat) (s : State) :
    (raiseError o e pos info s).status = Status.afterError o s.status := rfl
@[simp] theorem raiseError_errCode (o : Origin) (e : Cause) (pos info : Nat) (s : State) :
    (raiseError o e pos info s).regs.errCode = e.code := rfl
@[simp] theorem raiseError_errPos (o : Origin) (e : Cause) (pos info : Nat) (s : State) :
    (raiseError o e pos info s).regs.errPos = BitVec.ofNat 32 pos := rfl
@[simp] theorem raiseError_errInfo (o : Origin) (e : Cause) (pos info : Nat) (s : State) :
    (raiseError o e pos info s).regs.errInfo = BitVec.ofNat 32 info := rfl
@[simp] theorem afterError_busy (o : Origin) (st : Status) : (Status.afterError o st).busy = false := rfl
@[simp] theorem afterError_done (o : Origin) (st : Status) : (Status.afterError o st).done = false := rfl
@[simp] theorem afterError_err (o : Origin) (st : Status) : (Status.afterError o st).err = true := rfl
@[simp] theorem raiseError_parse_fbuf (e : Cause) (pos info : Nat) (s : State) :
    (raiseError .parse e pos info s).fbuf = s.fbuf := rfl
@[simp] theorem raiseError_parse_zbuf (e : Cause) (pos info : Nat) (s : State) :
    (raiseError .parse e pos info s).zbuf = Buffer.unspecified s.fresh := rfl
@[simp] theorem raiseError_parse_rbuf (e : Cause) (pos info : Nat) (s : State) :
    (raiseError .parse e pos info s).rbuf = s.rbuf := rfl
@[simp] theorem raiseError_parse_gsrc (e : Cause) (pos info : Nat) (s : State) :
    (raiseError .parse e pos info s).gsrc = s.gsrc := rfl
@[simp] theorem raiseError_parse_gdst (e : Cause) (pos info : Nat) (s : State) :
    (raiseError .parse e pos info s).gdst = s.gdst := rfl
@[simp] theorem raiseError_recon_fbuf (e : Cause) (pos info : Nat) (s : State) :
    (raiseError .recon e pos info s).fbuf = s.fbuf := rfl
@[simp] theorem raiseError_recon_zbuf (e : Cause) (pos info : Nat) (s : State) :
    (raiseError .recon e pos info s).zbuf = s.zbuf := rfl
@[simp] theorem raiseError_recon_rbuf (e : Cause) (pos info : Nat) (s : State) :
    (raiseError .recon e pos info s).rbuf = s.rbuf := rfl
@[simp] theorem raiseError_recon_gsrc (e : Cause) (pos info : Nat) (s : State) :
    (raiseError .recon e pos info s).gsrc = Buffer.unspecified s.fresh := rfl
@[simp] theorem raiseError_recon_gdst (e : Cause) (pos info : Nat) (s : State) :
    (raiseError .recon e pos info s).gdst = s.gdst := rfl
@[simp] theorem raiseError_resize_fbuf (e : Cause) (pos info : Nat) (s : State) :
    (raiseError .resize e pos info s).fbuf = s.fbuf := rfl
@[simp] theorem raiseError_resize_zbuf (e : Cause) (pos info : Nat) (s : State) :
    (raiseError .resize e pos info s).zbuf = s.zbuf := rfl
@[simp] theorem raiseError_resize_rbuf (e : Cause) (pos info : Nat) (s : State) :
    (raiseError .resize e pos info s).rbuf = s.rbuf := rfl
@[simp] theorem raiseError_resize_gsrc (e : Cause) (pos info : Nat) (s : State) :
    (raiseError .resize e pos info s).gsrc = s.gsrc := rfl
@[simp] theorem raiseError_resize_gdst (e : Cause) (pos info : Nat) (s : State) :
    (raiseError .resize e pos info s).gdst = Buffer.unspecified s.fresh := rfl
@[simp] theorem raiseError_pack_fbuf (e : Cause) (pos info : Nat) (s : State) :
    (raiseError .pack e pos info s).fbuf = s.fbuf := rfl
@[simp] theorem raiseError_pack_zbuf (e : Cause) (pos info : Nat) (s : State) :
    (raiseError .pack e pos info s).zbuf = s.zbuf := rfl
@[simp] theorem raiseError_pack_rbuf (e : Cause) (pos info : Nat) (s : State) :
    (raiseError .pack e pos info s).rbuf = Buffer.unspecified s.fresh := rfl
@[simp] theorem raiseError_pack_gsrc (e : Cause) (pos info : Nat) (s : State) :
    (raiseError .pack e pos info s).gsrc = s.gsrc := rfl
@[simp] theorem raiseError_pack_gdst (e : Cause) (pos info : Nat) (s : State) :
    (raiseError .pack e pos info s).gdst = s.gdst := rfl
@[simp] theorem raiseError_emit_fbuf (e : Cause) (pos info : Nat) (s : State) :
    (raiseError .emit e pos info s).fbuf = Buffer.unspecified s.fresh := rfl
@[simp] theorem raiseError_emit_zbuf (e : Cause) (pos info : Nat) (s : State) :
    (raiseError .emit e pos info s).zbuf = s.zbuf := rfl
@[simp] theorem raiseError_emit_rbuf (e : Cause) (pos info : Nat) (s : State) :
    (raiseError .emit e pos info s).rbuf = s.rbuf := rfl
@[simp] theorem raiseError_emit_gsrc (e : Cause) (pos info : Nat) (s : State) :
    (raiseError .emit e pos info s).gsrc = s.gsrc := rfl
@[simp] theorem raiseError_emit_gdst (e : Cause) (pos info : Nat) (s : State) :
    (raiseError .emit e pos info s).gdst = s.gdst := rfl
@[simp] theorem raiseError_crc_fbuf (e : Cause) (pos info : Nat) (s : State) :
    (raiseError .crc e pos info s).fbuf = s.fbuf := rfl
@[simp] theorem raiseError_crc_zbuf (e : Cause) (pos info : Nat) (s : State) :
    (raiseError .crc e pos info s).zbuf = s.zbuf := rfl
@[simp] theorem raiseError_crc_rbuf (e : Cause) (pos info : Nat) (s : State) :
    (raiseError .crc e pos info s).rbuf = s.rbuf := rfl
@[simp] theorem raiseError_crc_gsrc (e : Cause) (pos info : Nat) (s : State) :
    (raiseError .crc e pos info s).gsrc = s.gsrc := rfl
@[simp] theorem raiseError_crc_gdst (e : Cause) (pos info : Nat) (s : State) :
    (raiseError .crc e pos info s).gdst = s.gdst := rfl
@[simp] theorem raiseError_dispatcher_fbuf (e : Cause) (pos info : Nat) (s : State) :
    (raiseError .dispatcher e pos info s).fbuf = s.fbuf := rfl
@[simp] theorem raiseError_dispatcher_zbuf (e : Cause) (pos info : Nat) (s : State) :
    (raiseError .dispatcher e pos info s).zbuf = s.zbuf := rfl
@[simp] theorem raiseError_dispatcher_rbuf (e : Cause) (pos info : Nat) (s : State) :
    (raiseError .dispatcher e pos info s).rbuf = s.rbuf := rfl
@[simp] theorem raiseError_dispatcher_gsrc (e : Cause) (pos info : Nat) (s : State) :
    (raiseError .dispatcher e pos info s).gsrc = s.gsrc := rfl
@[simp] theorem raiseError_dispatcher_gdst (e : Cause) (pos info : Nat) (s : State) :
    (raiseError .dispatcher e pos info s).gdst = s.gdst := rfl

/-! ### The buffers by name -/

@[simp] theorem setBuf_buf (s : State) (id : BufId) (b : Buffer) : (s.setBuf id b).buf id = b := by cases id <;> rfl

theorem setBuf_buf_other (s : State) (id id' : BufId) (b : Buffer) (h : id' ≠ id) :
    (s.setBuf id b).buf id' = s.buf id' := by cases id <;> cases id' <;> first | rfl | exact absurd rfl h

@[simp] theorem setBuf_cfg (s : State) (id : BufId) (b : Buffer) : (s.setBuf id b).cfg = s.cfg := by cases id <;> rfl
@[simp] theorem setBuf_regs (s : State) (id : BufId) (b : Buffer) : (s.setBuf id b).regs = s.regs := by cases id <;> rfl
@[simp] theorem setBuf_status (s : State) (id : BufId) (b : Buffer) : (s.setBuf id b).status = s.status := by cases id <;> rfl
@[simp] theorem setBuf_seq (s : State) (id : BufId) (b : Buffer) : (s.setBuf id b).seq = s.seq := by cases id <;> rfl
@[simp] theorem setBuf_inputs (s : State) (id : BufId) (b : Buffer) : (s.setBuf id b).inputs = s.inputs := by cases id <;> rfl
@[simp] theorem setBuf_rdata (s : State) (id : BufId) (b : Buffer) : (s.setBuf id b).rdata = s.rdata := by cases id <;> rfl
@[simp] theorem setBuf_fresh (s : State) (id : BufId) (b : Buffer) : (s.setBuf id b).fresh = s.fresh := by cases id <;> rfl

end Sys2Proof.Machine
end

