-- ==== Sys2Proof/Laws/Ops.lean ====
section
/-! SUPPORT. What each shared operation can do, said once: dispatch, operation, control, error entry. -/

namespace Sys2Proof.Machine

theorem ready_iff (s : State) :
    s.ready = true ↔ s.status.busy = false ∧ s.status.err = false ∧ s.seq = .idle := by
  simp [State.ready, and_assoc]

/-- Dispatch answers next only on an idle block, and then either nothing happens or the word runs. -/
theorem dispatch_next {run : State → State} {s t : State} (h : dispatch run s = .next t) :
    s.status.busy = false ∧ (s.status.err = true ∧ t = s ∨ s.status.err = false ∧ t = run s) := by
  unfold dispatch at h
  cases hb : s.status.busy <;> cases he : s.status.err <;> simp_all

theorem operation_next {body : State → State} {s t : State} (h : operation body s = .next t) :
    s.status.busy = false ∧ (s.status.err = true ∧ t = s ∨ s.status.err = false ∧ t = body (acceptCommand s)) :=
  dispatch_next h

theorem control_next {body : State → State} {s t : State} (h : control body s = .next t) :
    s.status.busy = false ∧ t = body s := by
  unfold control at h
  cases hb : s.status.busy <;> simp_all

/-- From a ready state a command runs. -/
theorem operation_ready (body : State → State) {s : State} (h : s.ready = true) :
    operation body s = .next (body (acceptCommand s)) := by
  obtain ⟨hb, he, -⟩ := (ready_iff s).1 h
  simp [operation, dispatch, hb, he]

theorem dispatch_ready (run : State → State) {s : State} (h : s.ready = true) : dispatch run s = .next (run s) := by
  obtain ⟨hb, he, -⟩ := (ready_iff s).1 h
  simp [dispatch, hb, he]

/-- While an error is recorded, dispatch changes nothing. -/
theorem dispatch_error (run : State → State) {s : State} (hb : s.status.busy = false) (he : s.status.err = true) :
    dispatch run s = .next s := by
  simp [dispatch, hb, he]

/-- Error entry records its cause (60_exceptions.md R285). -/
theorem raiseError_records (o : Origin) (e : Cause) (pos info code : Nat) (s : State)
    (h : e.code = BitVec.ofNat 32 code) : records (raiseError o e pos info s) code pos info :=
  ⟨rfl, rfl, rfl, rfl, h, rfl, rfl⟩

/-- Error entry changes nothing but the outputs of the command that raised (60_exceptions.md R286). -/
theorem raiseError_onlyOutputs (o : Origin) (e : Cause) (pos info : Nat) (s : State) :
    onlyOutputsDiffer o s (raiseError o e pos info s) := by
  cases o <;> first | rfl | exact ⟨rfl, rfl, rfl⟩

/-- Two results of one command that touch only its outputs compose. -/
theorem onlyOutputsDiffer_trans {o : Origin} {s t u : State} (h₁ : onlyOutputsDiffer o s t) (h₂ : onlyOutputsDiffer o t u) :
    onlyOutputsDiffer o s u := by
  cases o
  · simp only [onlyOutputsDiffer] at *
    rw [h₁] at h₂; exact h₂
  all_goals
    simp only [onlyOutputsDiffer] at *
    obtain ⟨h₁, a₁, b₁⟩ := h₁
    obtain ⟨h₂, a₂, b₂⟩ := h₂
    refine ⟨?_, a₂.trans a₁, b₂.trans b₁⟩
    rw [h₁] at h₂; exact h₂

@[simp] theorem freeByteReg_lt (draw index : Nat) : (freeByteReg draw index).toNat < 256 := by
  simp only [freeByteReg, BitVec.toNat_setWidth]; omega

/-- Every cause has a code that the block produces (60_exceptions.md R280). -/
theorem Cause.code_produced (e : Cause) : producedCodes.contains e.code = true := by cases e <;> decide

end Sys2Proof.Machine
end

