-- ==== Sys2Proof/Laws/Chunk.lean ====
section
/-! SUPPORT. The walk of PARSE: the fetch, the cursor's advance, and the end of the walk. -/

namespace Sys2Proof.Machine

theorem nextChunk_ge (s : State) (pos : Nat) : pos + 12 ≤ nextChunk s pos := by simp [nextChunk]

/-- A whole chunk below FLEN is found, with its tag (41_chunk_reader.md R151). -/
theorem fetchChunk_found (s : State) (pos : Nat) (h : nextChunk s pos ≤ s.regs.flen.toNat) :
    fetchChunk s pos = .found (chunkTag s pos) := by
  have := nextChunk_ge s pos
  simp only [fetchChunk]
  rw [if_neg (by omega), if_neg (by omega), if_neg (by omega)]

theorem fetchChunk_atEnd (s : State) (pos : Nat) (h : pos = s.regs.flen.toNat) : fetchChunk s pos = .atEnd := by
  simp [fetchChunk, h]

theorem fetchChunk_truncated (s : State) (pos : Nat) (h : pos ≠ s.regs.flen.toNat)
    (h' : s.regs.flen.toNat < nextChunk s pos) : fetchChunk s pos = .truncated := by
  simp only [fetchChunk, if_neg h, if_pos h', ite_self]

/-- The fetch finds a chunk only where the whole of it lies below FLEN. -/
theorem fetchChunk_found_bound {s : State} {pos : Nat} {tag : Word} (h : fetchChunk s pos = .found tag) :
    nextChunk s pos ≤ s.regs.flen.toNat ∧ tag = chunkTag s pos := by
  simp only [fetchChunk] at h
  split at h
  · cases h
  · split at h
    · cases h
    · split at h
      · cases h
      · cases h; exact ⟨by omega, rfl⟩

/-- A chunk action ends the walk, or moves the cursor to the next chunk and leaves FLEN, FBUF and the configuration. -/
theorem chunkAction_seq (tag : Word) (pos zlen : Nat) (s : State) :
    (chunkAction tag pos zlen s).seq = .idle ∨
      ∃ z, (chunkAction tag pos zlen s).seq = .parse (nextChunk s pos) z
        ∧ (chunkAction tag pos zlen s).regs.flen = s.regs.flen := by
  simp only [chunkAction, ihdrChunk, idatChunk, iendChunk, skipChunk, finishWalk]
  split
  · split
    · exact .inl rfl
    · split
      · exact .inl rfl
      · exact .inr ⟨zlen, rfl, rfl⟩
  · split
    · split
      · exact .inl rfl
      · exact .inr ⟨_, rfl, rfl⟩
    · split
      · split
        · exact .inl rfl
        · exact .inl rfl
      · exact .inr ⟨zlen, rfl, rfl⟩

/-- The same of one turn of the loop; where it goes on, the cursor is not past FLEN. -/
theorem walkStep_seq (pos zlen : Nat) (s : State) :
    (walkStep pos zlen s).seq = .idle ∨
      ∃ z, (walkStep pos zlen s).seq = .parse (nextChunk s pos) z ∧ nextChunk s pos ≤ s.regs.flen.toNat
        ∧ (walkStep pos zlen s).regs.flen = s.regs.flen := by
  simp only [walkStep]
  split
  · simp only [finishWalk]; split <;> exact .inl rfl
  · exact .inl rfl
  · rename_i tag htag
    obtain ⟨hb, rfl⟩ := fetchChunk_found_bound htag
    rcases chunkAction_seq (chunkTag s pos) pos zlen s with h | ⟨z, h, h'⟩
    · exact .inl h
    · exact .inr ⟨z, h, hb, h'⟩

/-- The walk ends: FLEN + 1 turns are enough (00_scope.md R8). -/
theorem walk_ends (n : Nat) (s : State) (pos zlen : Nat) (h : s.seq = .parse pos zlen)
    (hn : s.regs.flen.toNat < n + pos) (hp : pos ≤ s.regs.flen.toNat) : (walk n s).seq = .idle := by
  induction n generalizing s pos zlen with
  | zero => omega
  | succ n ih =>
    simp only [walk, h]
    rcases walkStep_seq pos zlen s with hi | ⟨z, hz, hle, hf⟩
    · cases n <;> simp [walk, hi]
    · have := nextChunk_ge s pos
      exact ih (walkStep pos zlen s) (nextChunk s pos) z hz (by rw [hf]; omega) (by rw [hf]; exact hle)

/-- A chunk action answers next just where PARSE is walking. -/
theorem whileWalking_next {act : Nat → Nat → State → State} {s t : State} (h : whileWalking act s = .next t) :
    ∃ pos zlen, s.seq = .parse pos zlen ∧ t = act pos zlen s := by
  unfold whileWalking at h
  split at h
  · rename_i pos zlen hs; exact ⟨pos, zlen, hs, by simpa using h.symm⟩
  · cases h
  · cases h

end Sys2Proof.Machine
end

