-- ==== Sys2Proof/Laws/PerInstr.lean ====
section
/-! SUPPORT. What holds of every instruction as syntax, one lemma per constructor. -/

namespace Sys2Proof.Laws.TableFormat

/-- The space that spec/opcode_table.json gives a row ("format"): 0 CMD32, 1 CTAG32, 2 FTAG8. -/
def format : Code → Nat
  | .cmd _ => 0
  | .tag _ => 1
  | .filter _ => 2

/-- The "unit" of a row: the instruction is met by the dispatcher, in PARSE's walk or in RECON's rows. -/
def unitOf : Instr → Nat
  | .parse | .recon | .resize | .pack | .emit | .crc | .clrerr | .rst | .cmdIllegal _ => 0
  | .ihdr | .idat | .iend | .chunkOther _ => 1
  | .filtNone | .filtSub | .filtUp | .filtAverage | .filtPaeth | .filtIllegal _ => 2

/-- An instruction's code lies in the space its row has in the table. -/
def Statement (i : Instr) : Prop := format (encode i) = unitOf i

theorem parse : Statement .parse := rfl
theorem recon : Statement .recon := rfl
theorem resize : Statement .resize := rfl
theorem pack : Statement .pack := rfl
theorem emit : Statement .emit := rfl
theorem crc : Statement .crc := rfl
theorem clrerr : Statement .clrerr := rfl
theorem rst : Statement .rst := rfl
theorem cmdIllegal (w : Word) : Statement (.cmdIllegal w) := rfl
theorem ihdr : Statement .ihdr := rfl
theorem idat : Statement .idat := rfl
theorem iend : Statement .iend := rfl
theorem chunkOther (w : Word) : Statement (.chunkOther w) := rfl
theorem filtNone : Statement .filtNone := rfl
theorem filtSub : Statement .filtSub := rfl
theorem filtUp : Statement .filtUp := rfl
theorem filtAverage : Statement .filtAverage := rfl
theorem filtPaeth : Statement .filtPaeth := rfl
theorem filtIllegal (b : Byte) : Statement (.filtIllegal b) := rfl

end Sys2Proof.Laws.TableFormat
end

