-- ==== Sys2Proof/Laws/Recon.lean ====
section
/-! SUPPORT. The rows of RECON: the length and the recurrence of a reconstructed row, and the end of the row loop. -/

namespace Sys2Proof.Machine

theorem reconBytes_length (pred : Byte → Byte → Byte → Byte) (prev cur raw : List Byte) :
    (reconBytes pred prev cur raw).length = cur.length + raw.length := by
  induction raw generalizing cur with
  | nil => simp [reconBytes]
  | cons x raw ih => simp [reconBytes, ih]; omega

/-- The bytes already reconstructed stay. -/
theorem reconBytes_before (pred : Byte → Byte → Byte → Byte) (prev cur raw : List Byte) (i : Nat) (h : i < cur.length) :
    (reconBytes pred prev cur raw).getD i 0 = cur.getD i 0 := by
  induction raw generalizing cur with
  | nil => rfl
  | cons x raw ih =>
    rw [reconBytes, ih _ (by simp; omega)]
    simp [List.getD, List.getElem?_append_left h]

/-- The recurrence of a row (42_scanline_reconstructor.md R181 to R183): every neighbour is a reconstructed byte. -/
theorem reconBytes_getD (pred : Byte → Byte → Byte → Byte) (prev cur raw : List Byte) (i : Nat) (hi : cur.length ≤ i)
    (h : i < cur.length + raw.length) :
    (reconBytes pred prev cur raw).getD i 0 =
      raw.getD (i - cur.length) 0
        + pred (left (reconBytes pred prev cur raw) i) (up prev i) (upperLeft prev i) := by
  induction raw generalizing cur with
  | nil => simp at h; omega
  | cons x raw ih =>
    rcases Nat.eq_or_lt_of_le hi with rfl | hlt
    · have hb := reconBytes_before pred prev
        (cur ++ [x + pred (left cur cur.length) (up prev cur.length) (upperLeft prev cur.length)]) raw cur.length (by simp)
      rw [← reconBytes] at hb
      rw [hb]
      have hl : left (reconBytes pred prev cur (x :: raw)) cur.length = left cur cur.length := by
        simp only [left, fourBack]
        split
        · exact reconBytes_before pred prev cur (x :: raw) _ (by omega)
        · rfl
      simp [hl, List.getD]
    · rw [reconBytes, ih _ (by simp; omega) (by simp at h ⊢; omega)]
      congr 1
      rw [show i - cur.length = (i - (cur.length + 1)) + 1 by omega]
      simp

theorem rawRow_length (s : State) (y : Nat) : (rawRow s y).length = stride s.regs.hdrWidth.toNat := by
  simp [rawRow]

/-- A row action ends RECON, or goes on to the next row and leaves HDR_WIDTH and HDR_HEIGHT. -/
theorem rowAction_seq (tag : Byte) (y : Nat) (prev : List Byte) (s : State) :
    (rowAction tag y prev s).seq = .idle ∨
      ∃ row, (rowAction tag y prev s).seq = .recon (y + 1) row ∧ (rowAction tag y prev s).regs = s.regs := by
  simp only [rowAction, illegalRow, filterRow]
  split
  · exact .inr ⟨_, rfl, rfl⟩
  split
  · exact .inr ⟨_, rfl, rfl⟩
  split
  · exact .inr ⟨_, rfl, rfl⟩
  split
  · exact .inr ⟨_, rfl, rfl⟩
  split
  · exact .inr ⟨_, rfl, rfl⟩
  · exact .inl rfl

/-- The row loop ends: HDR_HEIGHT + 1 turns are enough (00_scope.md R8). -/
theorem rows_end (n : Nat) (s : State) (y : Nat) (prev : List Byte) (h : s.seq = .recon y prev)
    (hn : s.regs.hdrHeight.toNat < n + y) : (rows n s).seq = .idle ∨ s.regs.hdrHeight.toNat < y := by
  induction n generalizing s y prev with
  | zero => exact .inr (by omega)
  | succ n ih =>
    simp only [rows, h, rowStep]
    split
    · rename_i hy
      rcases rowAction_seq (rowTag s y) y prev s with hi | ⟨row, hr, he⟩
      · left; cases n <;> simp [rows, hi]
      · rcases ih _ (y + 1) row hr (by rw [he]; omega) with h' | h'
        · exact .inl h'
        · rw [he] at h'; omega
    · left; cases n <;> simp [rows, finishRecon, complete]

/-- A filter answers next just where RECON is running. -/
theorem whileReconstructing_next {act : Nat → List Byte → State → State} {s t : State}
    (h : whileReconstructing act s = .next t) : ∃ y prev, s.seq = .recon y prev ∧ t = act y prev s := by
  unfold whileReconstructing at h
  split at h
  · rename_i y prev hs; exact ⟨y, prev, hs, by simpa using h.symm⟩
  · cases h
  · cases h

end Sys2Proof.Machine
end

