-- ==== Sys2Proof/Laws/Step.lean ====
section
/-! SUPPORT. What a step can do, said once: one lemma per place a step fetches from. -/

namespace Sys2Proof.Machine

/-- What a chunk's tag decodes to does, where PARSE is walking, is the action the tag selects. -/
theorem exec_decodeTag (tag : Word) (s : State) (pos zlen : Nat) (h : s.seq = .parse pos zlen) :
    exec (decode (.tag tag)) s = .next (chunkAction tag pos zlen s) := by
  simp only [decode, decodeTag, chunkAction]
  split
  · simp [exec, execIhdr, whileWalking, h]
  split
  · simp [exec, execIdat, whileWalking, h]
  split
  · simp [exec, execIend, whileWalking, h]
  · simp [exec, execChunkOther, whileWalking, h]

/-- What a filter tag decodes to does, where RECON is running, is the action the tag selects. -/
theorem exec_decodeFilter (tag : Byte) (s : State) (y : Nat) (prev : List Byte) (h : s.seq = .recon y prev) :
    exec (decode (.filter tag)) s = .next (rowAction tag y prev s) := by
  simp only [decode, decodeFilter, rowAction]
  split
  · simp [exec, execFiltNone, whileReconstructing, h]
  split
  · simp [exec, execFiltSub, whileReconstructing, h]
  split
  · simp [exec, execFiltUp, whileReconstructing, h]
  split
  · simp [exec, execFiltAverage, whileReconstructing, h]
  split
  · simp [exec, execFiltPaeth, whileReconstructing, h]
  · simp [exec, execFiltIllegal, whileReconstructing, h]

/-- A step while PARSE walks is one turn of the walk. -/
theorem step_walking {s : State} {pos zlen : Nat} (h : s.seq = .parse pos zlen) (hr : resetPending s = false) :
    step s = .next (walkStep pos zlen s) := by
  simp only [step, fetch, hr, h, fetchTag, walkStep]
  cases fetchChunk s pos with
  | atEnd => rfl
  | truncated => rfl
  | found tag => exact exec_decodeTag tag s pos zlen h

/-- A step while RECON runs is one turn of the row loop. -/
theorem step_reconstructing {s : State} {y : Nat} {prev : List Byte} (h : s.seq = .recon y prev)
    (hr : resetPending s = false) : step s = .next (rowStep y prev s) := by
  simp only [step, fetch, hr, h, fetchFilter, rowStep]
  by_cases hy : y < s.regs.hdrHeight.toNat
  · simp only [hy, if_true, Bool.false_eq_true, if_false]; exact exec_decodeFilter _ s y prev h
  · simp [hy]

/-- A step with the reset input driven is hardware reset, whatever is under way (70_reset_and_hazards.md R311). -/
theorem step_reset {s : State} {rest : List Input} (h : s.inputs = .reset :: rest) :
    step s = .next (hardwareReset { s with inputs := rest }) := by
  simp [step, fetch, resetPending, h]

/-- A step on an idle block with a command word pending executes the word's instruction. -/
theorem step_command {s : State} {w : Word} {rest : List Input} (hs : s.seq = .idle)
    (h : s.inputs = .writeReg 0 w :: rest) : step s = exec (decode (.cmd w)) { s with inputs := rest } := by
  simp [step, fetch, resetPending, h, hs, fetchHost]

/-- A step on an idle block with nothing pending changes nothing (60_exceptions.md R296). -/
theorem step_idle {s : State} (hs : s.seq = .idle) (h : s.inputs = []) : step s = .next s := by
  simp [step, fetch, resetPending, h, hs, fetchHost]

/-- A step on an idle block with any other host action pending is that access, the action taken off the list. -/
theorem step_access {s : State} {a : Input} {rest : List Input} (hs : s.seq = .idle) (h : s.inputs = a :: rest)
    (hr : a ≠ .reset) (hc : ∀ v, a ≠ .writeReg 0 v) : step s = hostAccess a { s with inputs := rest } := by
  cases a with
  | writeReg slot v =>
    have h0 : slot ≠ 0 := by rintro rfl; exact hc v rfl
    simp [step, fetch, resetPending, h, hs, fetchHost, h0]
  | readReg slot => simp [step, fetch, resetPending, h, hs, fetchHost]
  | writeByte id off v => simp [step, fetch, resetPending, h, hs, fetchHost]
  | readByte id off => simp [step, fetch, resetPending, h, hs, fetchHost]
  | reset => exact absurd rfl hr

/-- Under the invariant a recorded error means that no command is under way (10_state.md R23, R24). -/
theorem inv_error {s : State} (hi : s.inv = true) (he : s.status.err = true) :
    s.seq = .idle ∧ s.status.busy = false ∧ s.status.done = false := by
  have hb : s.status.busy = false ∧ s.status.done = false := by simp_all [State.inv, State.flagsOk]
  refine ⟨?_, hb⟩
  cases hs : s.seq <;> simp_all [State.inv, State.seqOk]

/-- A host access never changes STATUS or an error register (10_state.md R21, R25). -/
theorem hostAccess_keeps_error {a : Input} {s t : State} (hr : a ≠ .reset) (h : hostAccess a s = .next t) :
    t.status = s.status ∧ t.regs.errCode = s.regs.errCode ∧ t.regs.errPos = s.regs.errPos ∧
      t.regs.errInfo = s.regs.errInfo := by
  cases a with
  | writeReg slot v =>
    simp only [hostAccess] at h
    split at h
    · cases h
    · cases h
      simp only [writeSlot]
      split
      · rename_i r _
        cases r <;> simp [writeReg]
      · simp
  | readReg slot =>
    simp only [hostAccess] at h
    split at h <;> cases h
    simp
  | writeByte id off v =>
    simp only [hostAccess] at h
    split at h
    · cases h
    · split at h <;> cases h
      cases id <;> simp [State.setBuf]
  | readByte id off =>
    simp only [hostAccess] at h
    split at h
    · cases h
    · split at h <;> cases h
      simp
  | reset => exact absurd rfl hr

end Sys2Proof.Machine
end

