-- ==== Sys2Proof/Tests/Slice0.lean ====
section
/-! SUPPORT. The model's own tests. Expected results are the spec's: the vectors of spec/95_test_vectors.md (named in each
comment) and the code tables of spec/30_encoding.md. -/

set_option Elab.async false -- one theorem at a time: the kernel evaluations below are many threads otherwise

namespace Sys2Proof.Tests

open Sys2Proof Sys2Proof.Machine Sys2Proof.Spec

/-! ### WellFormed: an ill-formed term for each check -/

theorem test_cmdIllegal_of_a_defined_word_is_refused : (Instr.cmdIllegal 0x0000000E).wellFormed = false := by decide
theorem test_chunkOther_of_a_defined_tag_is_refused : (Instr.chunkOther 0x49454E44).wellFormed = false := by decide
theorem test_filtIllegal_of_a_legal_tag_is_refused : (Instr.filtIllegal 0x04).wellFormed = false := by decide

/-! ### Decode: every row's code, written out from 30_encoding.md R90, R97, R101 (tags as their four bytes) -/

theorem test_decode_parse : decode (.cmd 0b00000000000000000000000000000001#32) = .parse := by decide
theorem test_decode_recon : decode (.cmd 0b00000000000000000000000000000010#32) = .recon := by decide
theorem test_decode_resize : decode (.cmd 0b00000000000000000000000000000011#32) = .resize := by decide
theorem test_decode_pack : decode (.cmd 0b00000000000000000000000000000100#32) = .pack := by decide
theorem test_decode_emit : decode (.cmd 0b00000000000000000000000000000101#32) = .emit := by decide
theorem test_decode_crc : decode (.cmd 0b00000000000000000000000000000110#32) = .crc := by decide
theorem test_decode_clrerr : decode (.cmd 0b00000000000000000000000000001110#32) = .clrerr := by decide
theorem test_decode_rst : decode (.cmd 0b00000000000000000000000000001111#32) = .rst := by decide
/-- Vector of section 8, step 6: bits 31:8 must be 0. -/
theorem test_decode_cmdIllegal : decode (.cmd 0x00000101) = .cmdIllegal 0x00000101 := by decide
theorem test_decode_ihdr : decode (.tag (be32Of 0x49 0x48 0x44 0x52)) = .ihdr := by decide
theorem test_decode_idat : decode (.tag (be32Of 0x49 0x44 0x41 0x54)) = .idat := by decide
theorem test_decode_iend : decode (.tag (be32Of 0x49 0x45 0x4E 0x44)) = .iend := by decide
/-- The tag `abCd` of program P1. -/
theorem test_decode_chunkOther : decode (.tag (be32Of 0x61 0x62 0x43 0x64)) = .chunkOther 0x61624364 := by decide
theorem test_decode_filtNone : decode (.filter 0b00000000#8) = .filtNone := by decide
theorem test_decode_filtSub : decode (.filter 0b00000001#8) = .filtSub := by decide
theorem test_decode_filtUp : decode (.filter 0b00000010#8) = .filtUp := by decide
theorem test_decode_filtAverage : decode (.filter 0b00000011#8) = .filtAverage := by decide
theorem test_decode_filtPaeth : decode (.filter 0b00000100#8) = .filtPaeth := by decide
theorem test_decode_filtIllegal : decode (.filter 0b00000101#8) = .filtIllegal 5 := by decide

theorem test_tableWord_tag : decodeTableWord 32 0x49444154 = some .idat := by decide
theorem test_tableWord_command : decodeTableWord 32 0x00000007 = some (.cmdIllegal 7) := by decide
theorem test_tableWord_filter : decodeTableWord 8 0x03 = some .filtAverage := by decide

/-! ### Small states -/

/-- The capacities of these tests. -/
def testConfig : Config := { fbufCap := 128, zbufCap := 32, rbufCap := 64, gridCap := 64, roundTie := .halfUp }

/-- The reset state of a block with them. -/
def base : State := { State.reset with cfg := testConfig }

/-- A buffer holding a byte string from offset 0. -/
def loaded (l : List Byte) : Buffer := (Buffer.unspecified 9).writeBytes 0 l

/-- A property of the next state. -/
def leads (o : Host.Outcome State Fault Refusal) (p : State → Bool) : Bool :=
  match o with
  | .next t => p t
  | .fault _ => false
  | .refused _ => false

/-- The bytes from offset 0. -/
def bytesOf (b : Buffer) (n : Nat) : List Byte := b.readBytes 0 n

/-- The IHDR chunk, 1 × 1 (section 2), the IDAT chunk and the IEND chunk of program P3. -/
def p3File : List Byte :=
  [0x89, 0x50, 0x4E, 0x47, 0x0D, 0x0A, 0x1A, 0x0A]
    ++ [0x00, 0x00, 0x00, 0x0D, 0x49, 0x48, 0x44, 0x52, 0x00, 0x00, 0x00, 0x01, 0x00, 0x00, 0x00, 0x01, 0x08, 0x06, 0x00,
      0x00, 0x00, 0x1F, 0x15, 0xC4, 0x89]
    ++ [0x00, 0x00, 0x00, 0x0D, 0x49, 0x44, 0x41, 0x54, 0x78, 0xDA, 0x63, 0x10, 0x32, 0x09, 0xAB, 0x00, 0x00, 0x02, 0x0D,
      0x01, 0x15, 0x76, 0x20, 0xB7, 0xD6]
    ++ [0x00, 0x00, 0x00, 0x00, 0x49, 0x45, 0x4E, 0x44, 0xAE, 0x42, 0x60, 0x82]

/-- A block with a file in FBUF. -/
def withFile (l : List Byte) : State :=
  { base with fbuf := loaded l, regs := { base.regs with flen := BitVec.ofNat 32 l.length } }

/-- The file of program P3 in FBUF. -/
def p3 : State := withFile p3File

/-- PARSE of it, begun and standing at a chunk, with HDR_SEEN as given. -/
def walkingAt (pos : Nat) (seen : Bool) : State :=
  { p3 with seq := .parse pos 0, status := { p3.status with busy := true, hdrSeen := seen } }

/-- A block with a raw stream and the dimensions of its header. -/
def withStream (w h : Word) (l : List Byte) : State :=
  { base with
    rbuf := loaded l
    regs := { base.regs with rlen := BitVec.ofNat 32 l.length, hdrWidth := w, hdrHeight := h } }

/-- RECON of a stream, standing at row 1 with the row before it. -/
def atRow1 (w h : Word) (l prev : List Byte) : State :=
  { withStream w h l with seq := .recon 1 prev, status := { base.status with busy := true } }

/-- A block with a source grid and its dimensions and the target's. -/
def withSource (tie : RoundTie) (sw sh tw th : Word) (l : List Byte) : State :=
  { base with
    cfg := { testConfig with roundTie := tie }
    gsrc := loaded l
    regs := { base.regs with sw := sw, sh := sh, tw := tw, th := th } }

/-! ### The chunk reader -/

/-- Program P3: STATUS after PARSE. -/
theorem test_parse_p3_status : leads (exec .parse p3) (fun t => readSlot t 1 == 0x1A) = true := by decide +kernel

/-- Vector PF-1: E_SIGNATURE. -/
theorem test_parse_bad_signature :
    leads (exec .parse { p3 with fbuf := p3.fbuf.write 0 0x88 }) (fun t => readSlot t 1 == 4 && readSlot t 2 == 1) = true := by
  decide +kernel

/-- R157's example, at the chunk of program P3. -/
theorem test_ihdr_loads :
    leads (exec .ihdr (walkingAt 8 false)) (fun t => t.regs.hdrBitDepth == 8 && t.seq == .parse 33 0) = true := by
  decide +kernel

/-- Vector PF-9: colour 2, compression 1, interlace 1 give the mask 0x16. -/
theorem test_ihdr_mask :
    leads
        (exec .ihdr
          { walkingAt 8 false with fbuf := p3.fbuf.writeBytes 24 [0x08, 0x02, 0x01, 0x00, 0x01] })
        (fun t => readSlot t 2 == 3 && readSlot t 3 == 8 && readSlot t 4 == 0x16) = true := by
  decide +kernel

/-- Program P3: the payload reaches ZBUF. -/
theorem test_idat_appends :
    leads (exec .idat (walkingAt 33 true)) (fun t => t.zbuf.read 0 == 0x78 && t.seq == .parse 58 13) = true := by
  decide +kernel

/-- R160's example: the terminal chunk at 58 ends the walk. -/
theorem test_iend_ends :
    leads (exec .iend (walkingAt 58 true)) (fun t => readSlot t 1 == 0x1A && t.seq == .idle) = true := by decide +kernel

/-- R161: only the cursor moves. -/
theorem test_chunkOther_skips :
    exec (.chunkOther 0x61624364) (walkingAt 33 true) = .next { walkingAt 33 true with seq := .parse 58 0 } := by rfl

/-! ### The scanline reconstructor -/

/-- Vector F-B. -/
theorem test_recon_up_paeth :
    leads
        (exec .recon
          (withStream 2 2
            [0x02, 0x0A, 0x14, 0x1E, 0x28, 0x32, 0x3C, 0x46, 0x50, 0x04, 0x01, 0x02, 0x03, 0x04, 0x05, 0x06, 0x07, 0x08]))
        (fun t =>
          bytesOf t.gsrc 16
            == [0x0A, 0x14, 0x1E, 0x28, 0x32, 0x3C, 0x46, 0x50, 0x0B, 0x16, 0x21, 0x2C, 0x37, 0x42, 0x4D, 0x58])
      = true := by
  decide +kernel

/-- Vector FF-2: E_FILTER_TAG at row 1. -/
theorem test_recon_illegal_tag :
    leads (exec .recon (withStream 1 2 [0x00, 0x01, 0x02, 0x03, 0x04, 0xFF, 0x00, 0x00, 0x00, 0x00]))
        (fun t => readSlot t 2 == 4 && readSlot t 3 == 1 && readSlot t 4 == 0xFF) = true := by
  decide +kernel

/-- R184: the row of vector F-A, taken as it is. -/
theorem test_filtNone :
    leads (exec .filtNone (atRow1 1 2 [0, 0, 0, 0, 0, 0x00, 0xFA, 0xFB, 0xFC, 0xFD] [1, 2, 3, 4]))
        (fun t => t.seq == .recon 2 [0xFA, 0xFB, 0xFC, 0xFD]) = true := by
  decide +kernel

/-- Vector F-A, row 1: the left neighbour is four bytes back, and the sum wraps. -/
theorem test_filtSub :
    leads
        (exec .filtSub
          (atRow1 2 2
            [0x00, 0x0A, 0x14, 0x1E, 0x28, 0x32, 0x3C, 0x46, 0x50, 0x01, 0x01, 0x02, 0x03, 0x04, 0xFA, 0xFB, 0xFC, 0xFD]
            [0x0A, 0x14, 0x1E, 0x28, 0x32, 0x3C, 0x46, 0x50]))
        (fun t => t.seq == .recon 2 [0x01, 0x02, 0x03, 0x04, 0xFB, 0xFD, 0xFF, 0x01]) = true := by
  decide +kernel

/-- R186's example. -/
theorem test_filtUp :
    leads (exec .filtUp (atRow1 1 2 [0, 0, 0, 0, 0, 0x02, 0x64, 0x64, 0x64, 0x64] [0xC8, 0xC9, 0xCA, 0xCB]))
        (fun t => t.seq == .recon 2 [0x2C, 0x2D, 0x2E, 0x2F]) = true := by
  decide +kernel

/-- Vector F-I, row 1: the sum of left and up needs 9 bits. -/
theorem test_filtAverage :
    leads
        (exec .filtAverage
          (atRow1 2 2 [0x00, 0xFF, 0xFF, 0xFF, 0xFF, 0xFF, 0xFF, 0xFF, 0xFF, 0x03, 1, 1, 1, 1, 1, 1, 1, 1]
            [0xFF, 0xFF, 0xFF, 0xFF, 0xFF, 0xFF, 0xFF, 0xFF]))
        (fun t => t.seq == .recon 2 [0x80, 0x80, 0x80, 0x80, 0xC0, 0xC0, 0xC0, 0xC0]) = true := by
  decide +kernel

/-- Vector F-H, row 1: each of the three neighbours is chosen. -/
theorem test_filtPaeth :
    leads
        (exec .filtPaeth
          (atRow1 2 2 [0x00, 0x0F, 0x0A, 0x00, 0x00, 0x0A, 0x32, 0x00, 0x00, 0x04, 0x05, 0x2A, 0x00, 0x00, 0x01, 0x02, 0, 0]
            [0x0F, 0x0A, 0x00, 0x00, 0x0A, 0x32, 0x00, 0x00]))
        (fun t => t.seq == .recon 2 [0x14, 0x34, 0x00, 0x00, 0x10, 0x36, 0x00, 0x00]) = true := by
  decide +kernel

/-- Vector FF-1. -/
theorem test_filtIllegal :
    leads (exec (.filtIllegal 5) (atRow1 1 2 [5, 0, 0, 0, 0, 5, 0, 0, 0, 0] [0, 0, 0, 0]))
        (fun t => readSlot t 1 == 4 && readSlot t 2 == 4 && readSlot t 3 == 1 && readSlot t 4 == 5) = true := by
  decide +kernel

/-- The table of section 3: the tie-breaks that can change the result, and a negative p. -/
theorem test_paeth_ties :
    [paethPredictor 3 0 1, paethPredictor 0 3 1, paethPredictor 6 0 2, paethPredictor 0 6 2, paethPredictor 0 0 255,
      paethPredictor 10 20 15] = [3, 3, 6, 6, 0, 15] := by
  decide

/-! ### The resampler -/

/-- Vector RZ-A, HALF_UP. -/
theorem test_resize_halfUp :
    leads (exec .resize (withSource .halfUp 2 1 4 1 [0x00, 0x0A, 0x64, 0xFF, 0x02, 0x14, 0xC8, 0xFF]))
        (fun t =>
          bytesOf t.gdst 16
            == [0x00, 0x0A, 0x64, 0xFF, 0x01, 0x0D, 0x7D, 0xFF, 0x02, 0x12, 0xAF, 0xFF, 0x02, 0x14, 0xC8, 0xFF])
      = true := by
  decide +kernel

/-- Vector RZ-F, HALF_EVEN, the vertical twin. -/
theorem test_resize_halfEven :
    leads (exec .resize (withSource .halfEven 1 2 1 4 [0x00, 0x01, 0x02, 0x03, 0x02, 0x03, 0x04, 0x05]))
        (fun t =>
          bytesOf t.gdst 16
            == [0x00, 0x01, 0x02, 0x03, 0x00, 0x02, 0x02, 0x04, 0x02, 0x02, 0x04, 0x04, 0x02, 0x03, 0x04, 0x05])
      = true := by
  decide +kernel

/-! ### The chunk writer and the checksum -/

/-- Vector PK-1. -/
theorem test_pack :
    leads (exec .pack { base with gdst := loaded [0x12, 0x34, 0x56, 0x78], regs := { base.regs with dw := 1, dh := 1 } })
        (fun t => bytesOf t.rbuf 5 == [0x00, 0x12, 0x34, 0x56, 0x78] && t.regs.rlen == 5) = true := by
  decide +kernel

/-- A 1 × 1 image's compressed stream in place (vector EM-2). -/
def readyToEmit : State :=
  { base with
    zbuf := loaded [0x78, 0xDA, 0x63, 0x10, 0x32, 0x09, 0xAB, 0x00, 0x00, 0x02, 0x0D, 0x01, 0x15]
    regs := { base.regs with zlen := 13, dw := 1, dh := 1 } }

/-- Vector EM-2: the file of program P3. -/
theorem test_emit : leads (exec .emit readyToEmit) (fun t => bytesOf t.fbuf 70 == p3File) = true := by decide +kernel

/-- Vector CR-2. -/
theorem test_crc :
    leads (exec .crc { p3 with regs := { p3.regs with coff := 12, clen := 17 } }) (fun t => readSlot t 23 == 0x1F15C489)
      = true := by
  decide +kernel

/-- Vector CR-6: the sum does not wrap. -/
theorem test_crc_range :
    leads (exec .crc { p3 with regs := { p3.regs with coff := 0xFFFFFFFF, clen := 2 } })
        (fun t => readSlot t 2 == 9 && readSlot t 4 == 1) = true := by
  decide +kernel

/-! ### Dispatch and control (section 8), through the step -/

/-- A block with one host action pending. -/
def pending (a : Input) : State := { base with inputs := [a] }

/-- The same block after E_ILLEGAL_CMD (section 8, step 2). -/
def failed (a : Input) : State :=
  { base with
    inputs := [a]
    status := { base.status with err := true }
    regs := { base.regs with errCode := 10, errInfo := 7, sw := 2 } }

/-- Step 2. -/
theorem test_illegal_word :
    leads (step (pending (.writeReg 0 7))) (fun t => readSlot t 1 == 4 && readSlot t 2 == 10 && readSlot t 4 == 7) = true := by
  decide +kernel

/-- Step 3: PARSE is ignored. -/
theorem test_ignored_while_error :
    step (failed (.writeReg 0 1)) = .next { failed (.writeReg 0 1) with inputs := [] } := by rfl

/-- Step 5. -/
theorem test_clrerr :
    leads (step (failed (.writeReg 0 0xE))) (fun t => readSlot t 1 == 2 && readSlot t 2 == 0 && readSlot t 4 == 0) = true := by
  decide +kernel

/-- Step 8. -/
theorem test_rst : leads (step (failed (.writeReg 0 0xF))) (fun t => readSlot t 1 == 0 && readSlot t 15 == 0) = true := by
  decide +kernel

/-- A read delivers the register and does not clear it. -/
theorem test_read_errCode :
    leads (step (failed (.readReg 2))) (fun t => t.rdata == 10 && readSlot t 2 == 10) = true := by decide +kernel

/-- Step 11: a write to a read-only register is ignored. -/
theorem test_status_is_read_only : leads (step (failed (.writeReg 1 0))) (fun t => readSlot t 1 == 4) = true := by
  decide +kernel

/-- After reset, with each kind of code placed, a step runs it. -/
theorem test_placed_codes_run :
    ([(32, 1), (32, 2), (32, 3), (32, 4), (32, 5), (32, 6), (32, 0xE), (32, 0xF), (32, 0), (32, 0x49484452), (32, 0x49444154),
        (32, 0x49454E44), (8, 0), (8, 1), (8, 2), (8, 3), (8, 4), (8, 5)].all fun c =>
      answersNext (step (State.reset.withFetchWord c.1 c.2))) = true := by
  decide +kernel

/-! ### Witnesses: for each obligation with hypotheses, a state and operands that meet all of them, clause by clause -/

/-- The 2 × 2 stream of vector F-B. -/
def streamFB : State :=
  withStream 2 2 [0x02, 0x0A, 0x14, 0x1E, 0x28, 0x32, 0x3C, 0x46, 0x50, 0x04, 0x01, 0x02, 0x03, 0x04, 0x05, 0x06, 0x07, 0x08]

/-- RECON of the two-row stream of vector FF-2, standing at its illegal row. -/
def atIllegalRow : State := atRow1 1 2 [0x00, 0x01, 0x02, 0x03, 0x04, 0xFF, 0x00, 0x00, 0x00, 0x00] [0x01, 0x02, 0x03, 0x04]

/-- The source of vector RZ-A. -/
def sourceRZA : State := withSource .halfUp 2 1 4 1 [0x00, 0x0A, 0x64, 0xFF, 0x02, 0x14, 0xC8, 0xFF]

/-- The grid of vector PK-1. -/
def gridPK1 : State :=
  { base with gdst := loaded [0x12, 0x34, 0x56, 0x78], regs := { base.regs with dw := 1, dh := 1 } }

/-- The header and the data chunk of program P3, and a second header. -/
def p3Header : RawChunk :=
  { tag := 0x49484452, body := [0, 0, 0, 1, 0, 0, 0, 1, 8, 6, 0, 0, 0], trailer := [0x1F, 0x15, 0xC4, 0x89] }

def p3Data : RawChunk :=
  { tag := 0x49444154
    body := [0x78, 0xDA, 0x63, 0x10, 0x32, 0x09, 0xAB, 0x00, 0x00, 0x02, 0x0D, 0x01, 0x15]
    trailer := [0x76, 0x20, 0xB7, 0xD6] }

def p3End : RawChunk := { tag := 0x49454E44, body := [], trailer := [0xAE, 0x42, 0x60, 0x82] }

/-- Chunks as in vector PF-17: data before the header, two headers, a terminal chunk with a payload, a byte after it. -/
def pf17Front : List RawChunk :=
  [{ tag := 0x49444154, body := [0xAA, 0xBB], trailer := [0x74, 0xA0, 0x83, 0xDD] }, p3Header,
    { tag := 0x49484452, body := [0, 0, 0, 5, 0, 0, 0, 6, 8, 6, 0, 0, 0], trailer := [0x0B, 0xFB, 0x54, 0x4B] },
    { tag := 0x49444154, body := [0xCC], trailer := [0xBA, 0xEA, 0xF3, 0x73] }]

def pf17End : RawChunk := { tag := 0x49454E44, body := [1, 2], trailer := [0xF2, 0xCB, 0x77, 0x41] }

theorem witness_EncodedInstructionsDecodeBack :
    (Instr.cmdIllegal 0x00000101).wellFormed = true ∧ (Instr.filtIllegal 5).wellFormed = true ∧ Instr.parse.wellFormed = true := by
  decide

theorem witness_StepRunsTheDecodedCode_command :
    (pending (.writeReg 0 1)).seq = .idle ∧ (pending (.writeReg 0 1)).inputs = .writeReg 0 1 :: [] := ⟨rfl, rfl⟩

theorem witness_StepRunsTheDecodedCode_tag :
    (walkingAt 58 true).seq = .parse 58 0 ∧ (walkingAt 58 true).inputs.head? ≠ some .reset ∧
      58 + 12 + ((walkingAt 58 true).fbuf.readBE32 58).toNat ≤ (walkingAt 58 true).regs.flen.toNat := by
  decide +kernel

theorem witness_StepRunsTheDecodedCode_filter :
    atIllegalRow.seq = .recon 1 [1, 2, 3, 4] ∧ atIllegalRow.inputs.head? ≠ some .reset ∧
      1 < atIllegalRow.regs.hdrHeight.toNat := by
  decide +kernel

theorem witness_PlacedCodeIsRunByTheNextStep :
    Memory.wf base.fbuf.cells = true ∧ Memory.wf base.rbuf.cells = true ∧ decodeTableWord 32 1 = some .parse ∧
      (base.withFetchWord 32 1).seq = .idle ∧ decodeTableWord 8 4 = some .filtPaeth ∧
      decodeTableWord 32 0x49454E44 = some .iend := by
  decide +kernel

theorem witness_IdleBlockKeepsAllState : base.seq = .idle ∧ base.inputs = [] := ⟨rfl, rfl⟩

theorem witness_CommandsAreTheirOwnSteps_parse :
    p3.ready = true ∧ p3.inputs.head? ≠ some .reset ∧ p3.regs.flen.toNat ≤ p3.cfg.fbufCap.toNat ∧ signatureOk p3 = true := by
  decide +kernel

theorem witness_CommandsAreTheirOwnSteps_recon :
    streamFB.ready = true ∧ streamFB.inputs.head? ≠ some .reset ∧ streamFB.regs.rlen.toNat ≤ streamFB.cfg.rbufCap.toNat ∧
      4 * streamFB.regs.hdrWidth.toNat * streamFB.regs.hdrHeight.toNat ≤ streamFB.cfg.gridCap.toNat ∧
      streamFB.regs.hdrHeight.toNat * (1 + 4 * streamFB.regs.hdrWidth.toNat) ≤ streamFB.regs.rlen.toNat := by
  decide +kernel

/-- CMD, the last register, and the first slot past the map. -/
theorem witness_RegisterMapReads :
    [0, 23, 24].all (fun k =>
        (pending (.readReg k)).seq == .idle && !(pending (.readReg k)).status.busy
          && (pending (.readReg k)).inputs == [.readReg k]) = true := by
  decide +kernel

/-- The first and the last writable slot, and beside them CRCVAL and the first slot past the map. -/
theorem witness_HostRegisterWrites :
    [5, 22, 23, 24].all (fun k =>
        (pending (.writeReg k 7)).seq == .idle && !(pending (.writeReg k 7)).status.busy
          && (pending (.writeReg k 7)).inputs == [.writeReg k 7] && k != 0) = true ∧
      5 ∈ [5, 6, 7, 8, 9, 15, 16, 17, 18, 19, 20, 21, 22] ∧ 22 ∈ [5, 6, 7, 8, 9, 15, 16, 17, 18, 19, 20, 21, 22] ∧
      23 ∉ [5, 6, 7, 8, 9, 15, 16, 17, 18, 19, 20, 21, 22] ∧ 24 ∉ [5, 6, 7, 8, 9, 15, 16, 17, 18, 19, 20, 21, 22] := by
  decide +kernel

/-- The last byte of ZBUF and the first that does not exist. -/
theorem witness_HostByteAccesses :
    (pending (.writeByte .zbuf 31 7)).inputs = .writeByte .zbuf 31 7 :: [] ∧
      (pending (.readByte .zbuf 32)).inputs = .readByte .zbuf 32 :: [] ∧ base.seq = .idle ∧ base.status.busy = false ∧
      Memory.wf (base.buf .zbuf).cells = true ∧ 31 < capacityOf base.cfg .zbuf ∧ capacityOf base.cfg .zbuf ≤ 32 := by
  decide +kernel

theorem witness_ResetsClearEveryRegister :
    { walkingAt 33 true with inputs := [.reset] }.inputs = .reset :: [] ∧ (failed .reset).status.busy = false := ⟨rfl, rfl⟩

theorem witness_ClearErrorForgetsTheError : (failed (.writeReg 0 0xE)).status.busy = false := rfl

theorem witness_SoftResetZeroesTheRegisters : (failed (.writeReg 0 0xF)).status.busy = false := rfl

theorem witness_IllegalCommandIsRecorded :
    base.ready = true ∧ (0x00000101 : Word) ∉ ([1, 2, 3, 4, 5, 6, 0xE, 0xF] : List Word) ∧
      (0x00000000 : Word) ∉ ([1, 2, 3, 4, 5, 6, 0xE, 0xF] : List Word) := by
  decide +kernel

theorem witness_NothingRunsWhileAnErrorIsRecorded :
    (failed .reset).status.busy = false ∧ (failed .reset).status.err = true ∧ (0x77 : Word) ≠ 0x0000000E ∧
      (0x77 : Word) ≠ 0x0000000F := by
  decide +kernel

/-- A state with a recorded error and another command, or a read, as the next input: the error stays. -/
theorem witness_NothingRunsWhileAnErrorIsRecorded_stays :
    [Input.writeReg 0 0xD, .writeReg 1 0xE, .readReg 2].all (fun a =>
        (failed a).inv && (failed a).status.err && leads (step (failed a)) (fun _ => true)
          && !(List.contains [some Input.reset, some (.writeReg 0 0xE), some (.writeReg 0 0xF)] (failed a).inputs.head?)) = true := by
  decide +kernel

/-- And the three inputs that end the error state. -/
theorem witness_NothingRunsWhileAnErrorIsRecorded_leaves :
    [Input.writeReg 0 0xE, .writeReg 0 0xF, .reset].all (fun a =>
        (failed a).inv && (failed a).status.err && (failed a).inputs == [a]) = true := by
  decide +kernel

theorem witness_CommandsChangeOnlyTheirOutputs :
    (Instr.parse, Origin.parse) ∈ operations ∧ (Instr.crc, Origin.crc) ∈ operations ∧ p3.ready = true := by
  decide +kernel

theorem witness_CommandsEndDoneOrInError :
    (Instr.resize, Origin.resize) ∈ operations ∧ base.ready = true ∧ base.regs.errCode = 0 ∧ base.regs.errPos = 0 ∧
      base.regs.errInfo = 0 := by
  decide +kernel

theorem witness_ChunkAndRowActionsChangeOnlyTheirOutputs :
    (walkingAt 33 true).seq = .parse 33 0 ∧ Instr.idat ∈ [Instr.ihdr, .idat, .iend, .chunkOther 0] ∧
      atIllegalRow.seq = .recon 1 [1, 2, 3, 4] ∧
      Instr.filtIllegal 5 ∈ [Instr.filtNone, .filtSub, .filtUp, .filtAverage, .filtPaeth, .filtIllegal 5] := by
  decide +kernel

/-- FLEN one above the capacity; and at most it, with 7 bytes, or with a wrong first byte (vectors PF-1, PF-2). -/
theorem witness_ParseChecksLengthAndSignature :
    { p3 with regs := { p3.regs with flen := 129 } }.ready = true ∧
      { p3 with regs := { p3.regs with flen := 129 } }.cfg.fbufCap.toNat < (129 : Word).toNat ∧
      (withFile (p3File.take 7)).ready = true ∧ (withFile (p3File.take 7)).regs.flen.toNat < 8 ∧
      (withFile (p3File.set 0 0x88)).ready = true ∧
      (withFile (p3File.set 0 0x88)).regs.flen.toNat ≤ (withFile (p3File.set 0 0x88)).cfg.fbufCap.toNat ∧
      (withFile (p3File.set 0 0x88)).fbuf.read 0 ≠ signature.getD 0 0 := by
  decide +kernel

/-- A header chunk of length 13 that is accepted (P3), one that is not (depth 16), and one of length 14. -/
theorem witness_HeaderChunkLoadsTheHeader :
    (walkingAt 8 false).seq = .parse 8 0 ∧ ((walkingAt 8 false).fbuf.readBE32 8).toNat = 13 ∧
      (walkingAt 8 false).fbuf.readBytes 24 5 = [8, 6, 0, 0, 0] ∧
      ((walkingAt 8 false).fbuf.write 24 16).read 24 ≠ 8 ∧ (((walkingAt 8 false).fbuf.write 24 16).readBE32 8).toNat = 13 ∧
      (((walkingAt 8 false).fbuf.write 11 14).readBE32 8).toNat ≠ 13 := by
  decide +kernel

/-- ZBUF just large enough for the payload of P3, and one byte too small (vector PF-16). -/
theorem witness_DataChunkIsAppended :
    (walkingAt 33 true).seq = .parse 33 0 ∧ Memory.wf (walkingAt 33 true).zbuf.cells = true ∧
      0 + ((walkingAt 33 true).fbuf.readBE32 33).toNat ≤ (13 : Word).toNat ∧
      (12 : Word).toNat < 0 + ((walkingAt 33 true).fbuf.readBE32 33).toNat := by
  decide +kernel

theorem witness_TerminalChunkEndsTheWalk :
    (walkingAt 58 true).seq = .parse 58 0 ∧ (walkingAt 58 true).status.hdrSeen = true ∧
      (walkingAt 58 false).seq = .parse 58 0 ∧ (walkingAt 58 false).status.hdrSeen = false := ⟨rfl, rfl, rfl, rfl⟩

theorem witness_UnknownChunkIsSkipped : (walkingAt 33 true).seq = .parse 33 0 := rfl

/-- The end reached with and without a header; one byte left; a chunk that lacks its last byte (vector PF-11). -/
theorem witness_WalkEndsWhereNoChunkFollows :
    (walkingAt 70 true).inputs.head? ≠ some .reset ∧ 70 = (walkingAt 70 true).regs.flen.toNat ∧
      (walkingAt 70 true).status.hdrSeen = true ∧ (walkingAt 70 false).status.hdrSeen = false ∧
      69 ≠ (walkingAt 69 true).regs.flen.toNat ∧
      (walkingAt 69 true).regs.flen.toNat < 69 + 12 + ((walkingAt 69 true).fbuf.readBE32 69).toNat ∧
      (58 : Nat) ≠ (69 : Word).toNat ∧ (69 : Word).toNat < 58 + 12 + ((walkingAt 58 true).fbuf.readBE32 58).toNat := by
  refine ⟨by decide +kernel, by decide +kernel, rfl, rfl, by decide +kernel, ?_, by decide, by decide +kernel⟩
  have : (walkingAt 69 true).regs.flen.toNat = 70 := by decide +kernel
  omega

theorem witness_ParseReadsAWholeFile_p3 :
    p3.ready = true ∧ Memory.wf p3.zbuf.cells = true ∧
      (∀ c ∈ [p3Header, p3Data], c.framed = true ∧ c.acceptable = true ∧ c.tag ≠ 0x49454E44) ∧
      p3End.framed = true ∧ p3End.tag = 0x49454E44 ∧ lastHeader [p3Header, p3Data] = some p3Header ∧
      p3.regs.flen.toNat = (fileOf [p3Header, p3Data] (some (p3End, []))).length ∧
      p3.regs.flen.toNat ≤ p3.cfg.fbufCap.toNat ∧
      p3.fbuf.readBytes 0 p3.regs.flen.toNat = fileOf [p3Header, p3Data] (some (p3End, [])) ∧
      (dataOf [p3Header, p3Data]).length ≤ p3.cfg.zbufCap.toNat := by
  decide +kernel

/-- Vector PF-17, with its terminal chunk and without one. -/
theorem witness_ParseReadsAWholeFile_pf17 :
    let f := fileOf pf17Front (some (pf17End, [0xFF]))
    let g := fileOf pf17Front none
    (∀ c ∈ pf17Front, c.framed = true ∧ c.acceptable = true ∧ c.tag ≠ 0x49454E44) ∧
      pf17End.framed = true ∧ pf17End.tag = 0x49454E44 ∧ (lastHeader pf17Front).isSome = true ∧
      (withFile f).regs.flen.toNat = f.length ∧ (withFile f).fbuf.readBytes 0 f.length = f ∧
      (withFile g).regs.flen.toNat = g.length ∧ (withFile g).fbuf.readBytes 0 g.length = g ∧ f.length ≤ 128 ∧
      (dataOf pf17Front).length ≤ 32 := by
  decide +kernel

theorem witness_ParseReadsNothingBeyondFlen :
    p3.ready = true ∧ (∀ a, a < p3.regs.flen.toNat → (p3.fbuf.write 70 7).read a = p3.fbuf.read a) ∧
      ∃ t, exec .parse p3 = .next t :=
  ⟨by decide +kernel, by decide +kernel, _, rfl⟩

theorem witness_NoneSubUpReconstructARow :
    atIllegalRow.seq = .recon 1 [1, 2, 3, 4] ∧ Memory.wf atIllegalRow.gsrc.cells = true := by decide +kernel

theorem witness_AverageReconstructsARow :
    atIllegalRow.seq = .recon 1 [1, 2, 3, 4] ∧ Memory.wf atIllegalRow.gsrc.cells = true := by decide +kernel

theorem witness_PaethReconstructsARow :
    atIllegalRow.seq = .recon 1 [1, 2, 3, 4] ∧ Memory.wf atIllegalRow.gsrc.cells = true := by decide +kernel

theorem witness_IllegalFilterTagIsRecorded :
    atIllegalRow.seq = .recon 1 [1, 2, 3, 4] ∧ atIllegalRow.inputs.head? ≠ some .reset ∧
      1 < atIllegalRow.regs.hdrHeight.toNat ∧ 4 < (tagByte atIllegalRow 1).toNat := by
  decide +kernel

theorem witness_ReconRebuildsTheGrid :
    streamFB.ready = true ∧ Memory.wf streamFB.gsrc.cells = true ∧ streamFB.regs.rlen.toNat ≤ streamFB.cfg.rbufCap.toNat ∧
      4 * streamFB.regs.hdrWidth.toNat * streamFB.regs.hdrHeight.toNat ≤ streamFB.cfg.gridCap.toNat ∧
      streamFB.regs.hdrHeight.toNat * (1 + 4 * streamFB.regs.hdrWidth.toNat) ≤ streamFB.regs.rlen.toNat ∧
      ∀ y, y < streamFB.regs.hdrHeight.toNat → (tagByte streamFB y).toNat ≤ 4 := by
  decide +kernel

/-- RLEN above RBUF_CAP; a grid one row too large; a stream one byte too short (vector FF-3). -/
theorem witness_ReconChecksItsOperands :
    (withStream 1 1 [0, 1, 2, 3]).ready = true ∧ (64 : Word).toNat < (65 : Word).toNat ∧
      (4 : Nat) ≤ (withStream 1 1 [0, 1, 2, 3]).cfg.rbufCap.toNat ∧
      (withStream 1 17 []).cfg.gridCap.toNat < 4 * (1 : Word).toNat * (17 : Word).toNat ∧
      (withStream 1 1 [0, 1, 2, 3]).regs.rlen.toNat < (1 : Word).toNat * (1 + 4 * (1 : Word).toNat) := by
  decide +kernel

theorem witness_ReconReportsTheFirstIllegalRow :
    let s := withStream 1 2 [0x00, 0x01, 0x02, 0x03, 0x04, 0xFF, 0x00, 0x00, 0x00, 0x00]
    s.ready = true ∧ s.regs.rlen.toNat ≤ s.cfg.rbufCap.toNat ∧
      4 * s.regs.hdrWidth.toNat * s.regs.hdrHeight.toNat ≤ s.cfg.gridCap.toNat ∧
      s.regs.hdrHeight.toNat * (1 + 4 * s.regs.hdrWidth.toNat) ≤ s.regs.rlen.toNat ∧ 1 < s.regs.hdrHeight.toNat ∧
      4 < (tagByte s 1).toNat ∧ ∀ k, k < 1 → (tagByte s k).toNat ≤ 4 := by
  decide +kernel

theorem witness_ResizeBlendsFourSamples :
    sourceRZA.ready = true ∧ Memory.wf sourceRZA.gdst.cells = true ∧ 0 < sourceRZA.regs.sw.toNat ∧
      0 < sourceRZA.regs.sh.toNat ∧ 0 < sourceRZA.regs.tw.toNat ∧ 0 < sourceRZA.regs.th.toNat ∧
      4 * sourceRZA.regs.sw.toNat * sourceRZA.regs.sh.toNat ≤ sourceRZA.cfg.gridCap.toNat ∧
      4 * sourceRZA.regs.tw.toNat * sourceRZA.regs.th.toNat ≤ sourceRZA.cfg.gridCap.toNat ∧
      ¬(sourceRZA.regs.tw.toNat = sourceRZA.regs.sw.toNat ∧ sourceRZA.regs.th.toNat = sourceRZA.regs.sh.toNat) := by
  decide +kernel

/-- A 4 × 4 grid, which fills GRID_CAP; and the corner pixel of the general path. -/
theorem witness_IdentityResizeCopies :
    let s := withSource .halfUp 4 4 4 4 []
    s.ready = true ∧ Memory.wf s.gdst.cells = true ∧ 0 < s.regs.sw.toNat ∧ 0 < s.regs.sh.toNat ∧ s.regs.tw = s.regs.sw ∧
      s.regs.th = s.regs.sh ∧ 4 * s.regs.sw.toNat * s.regs.sh.toNat ≤ s.cfg.gridCap.toNat ∧ (3 : Nat) < 4 := by
  decide +kernel

/-- Vectors RF-3, RF-5 and RF-4. -/
theorem witness_ResizeChecksItsOperands :
    base.ready = true ∧ base.regs.sw.toNat = 0 ∧ (withSource .halfUp 5 4 1 1 []).ready = true ∧
      (withSource .halfUp 5 4 1 1 []).cfg.gridCap.toNat < 4 * (5 : Word).toNat * (4 : Word).toNat ∧
      0 < (1 : Word).toNat ∧ 4 * (2 : Word).toNat * (2 : Word).toNat ≤ (withSource .halfUp 2 2 5 4 []).cfg.gridCap.toNat ∧
      (withSource .halfUp 2 2 5 4 []).cfg.gridCap.toNat < 4 * (5 : Word).toNat * (4 : Word).toNat := by
  decide +kernel

theorem witness_ResampleIndexesStayInside : (0 : Nat) < 1 ∧ (3 : Nat) < 4 ∧ (0 : Nat) < 4 := by decide

theorem witness_BlendNeverNeedsTheClamp : (0 : Nat) < 2 ∧ (0 : Nat) < 1 ∧ (3 : Nat) < 4 ∧ (0 : Nat) < 1 := by decide

theorem witness_ConstantChannelStaysConstant :
    (0 : Nat) < 1 ∧ (3 : Nat) < 4 ∧
      (∀ i j, i < 1 → j < 1 → (loaded [0x07, 0x4D, 0xB1, 0xFF]).read ((j * 1 + i) * 4 + 3) = 0xFF) ∧ (2 : Nat) < 3 := by
  refine ⟨by decide, by decide, fun i j hi hj => ?_, by decide⟩
  obtain rfl : i = 0 := by omega
  obtain rfl : j = 0 := by omega
  decide +kernel

theorem witness_RoundingIsToNearest : (0 : Int) ≤ 10 ∧ (0 : Int) < 4 ∧ 2 * ((10 : Int) - 2 * 4) = 4 := by decide

theorem witness_ResizeDependsOnlyOnItsOperands :
    let u := { sourceRZA with gsrc := sourceRZA.gsrc.write 8 1, regs := { sourceRZA.regs with flen := 9 } }
    sourceRZA.ready = true ∧ u.ready = true ∧ Memory.wf sourceRZA.gdst.cells = true ∧ Memory.wf u.gdst.cells = true ∧
      u.cfg.roundTie = sourceRZA.cfg.roundTie ∧
      (∀ a, a < 4 * sourceRZA.regs.sw.toNat * sourceRZA.regs.sh.toNat → u.gsrc.read a = sourceRZA.gsrc.read a) ∧
      leads (exec .resize sourceRZA) (fun t => !t.status.err) = true ∧ leads (exec .resize u) (fun t => !t.status.err) = true := by
  decide +kernel

/-- Vector PK-1; a grid and a stream one row too large. -/
theorem witness_PackPrefixesEveryRow :
    gridPK1.ready = true ∧ Memory.wf gridPK1.rbuf.cells = true ∧
      4 * gridPK1.regs.dw.toNat * gridPK1.regs.dh.toNat ≤ gridPK1.cfg.gridCap.toNat ∧
      gridPK1.regs.dh.toNat * (1 + 4 * gridPK1.regs.dw.toNat) ≤ gridPK1.cfg.rbufCap.toNat ∧
      gridPK1.cfg.gridCap.toNat < 4 * (1 : Word).toNat * (17 : Word).toNat ∧
      4 * (1 : Word).toNat * (13 : Word).toNat ≤ gridPK1.cfg.gridCap.toNat ∧
      gridPK1.cfg.rbufCap.toNat < (13 : Word).toNat * (1 + 4 * (1 : Word).toNat) := by
  decide +kernel

/-- Vector EM-2; ZLEN above ZBUF_CAP; a file one byte too long. -/
theorem witness_EmitLaysOutTheFile :
    readyToEmit.ready = true ∧ Memory.wf readyToEmit.fbuf.cells = true ∧
      readyToEmit.regs.zlen.toNat ≤ readyToEmit.cfg.zbufCap.toNat ∧
      57 + readyToEmit.regs.zlen.toNat ≤ readyToEmit.cfg.fbufCap.toNat ∧
      readyToEmit.cfg.zbufCap.toNat < (33 : Word).toNat ∧ (69 : Word).toNat < 57 + readyToEmit.regs.zlen.toNat := by
  decide +kernel

/-- Vectors CR-4 (the empty range at the end) and CR-5; FLEN above FBUF_CAP. -/
theorem witness_CrcCommandChecksumsARange :
    p3.ready = true ∧ p3.regs.flen.toNat ≤ p3.cfg.fbufCap.toNat ∧ (70 : Word).toNat + (0 : Word).toNat ≤ p3.regs.flen.toNat ∧
      p3.regs.flen.toNat < (60 : Word).toNat + (11 : Word).toNat ∧ p3.cfg.fbufCap.toNat < (129 : Word).toNat := by
  decide +kernel

theorem witness_EmittedTrailersVerify :
    readyToEmit.ready = true ∧ Memory.wf readyToEmit.fbuf.cells = true ∧
      leads (exec .emit readyToEmit) (fun t => !t.status.err) = true := by
  decide +kernel

theorem witness_PackThenReconRestoresTheGrid :
    gridPK1.ready = true ∧ Memory.wf gridPK1.rbuf.cells = true ∧ Memory.wf gridPK1.gsrc.cells = true ∧
      4 * gridPK1.regs.dw.toNat * gridPK1.regs.dh.toNat ≤ gridPK1.cfg.gridCap.toNat ∧
      gridPK1.regs.dh.toNat * (1 + 4 * gridPK1.regs.dw.toNat) ≤ gridPK1.cfg.rbufCap.toNat := by
  decide +kernel

theorem witness_EmitThenParseRestoresTheStream :
    readyToEmit.ready = true ∧ Memory.wf readyToEmit.fbuf.cells = true ∧ Memory.wf readyToEmit.zbuf.cells = true ∧
      readyToEmit.regs.zlen.toNat ≤ readyToEmit.cfg.zbufCap.toNat ∧
      57 + readyToEmit.regs.zlen.toNat ≤ readyToEmit.cfg.fbufCap.toNat := by
  decide +kernel

/-- With the identity for both the compressor and the decompressor. -/
theorem witness_RoundTripRestoresTheImage :
    let z := id (packStream gridPK1.gdst gridPK1.regs.dw.toNat gridPK1.regs.dh.toNat)
    gridPK1.ready = true ∧ gridPK1.inv = true ∧ (∀ l : List Byte, id (id l) = l) ∧
      4 * gridPK1.regs.dw.toNat * gridPK1.regs.dh.toNat ≤ gridPK1.cfg.gridCap.toNat ∧
      gridPK1.regs.dh.toNat * (1 + 4 * gridPK1.regs.dw.toNat) ≤ gridPK1.cfg.rbufCap.toNat ∧
      z.length ≤ gridPK1.cfg.zbufCap.toNat ∧ 57 + z.length ≤ gridPK1.cfg.fbufCap.toNat := by
  refine ⟨by decide +kernel, by decide +kernel, fun _ => rfl, ?_⟩
  decide +kernel

/-- An idle block, a block in the middle of PARSE, and one in the middle of RECON meet the invariant and step on. -/
theorem witness_StepKeepsTheInvariant :
    base.inv = true ∧ answersNext (step base) = true ∧ (walkingAt 8 false).inv = true ∧
      answersNext (step (walkingAt 8 false)) = true ∧ atIllegalRow.inv = true ∧ answersNext (step atIllegalRow) = true := by
  decide +kernel

theorem witness_RunsNeverStop :
    (pending (.writeByte .zbuf 31 7)).inv = true ∧
      ∀ a ∈ (pending (.writeByte .zbuf 31 7)).inputs, inputInRange (pending (.writeByte .zbuf 31 7)).cfg a = true := by
  decide +kernel

theorem witness_ParametersNeverChange : step base = .next base := rfl

theorem witness_ResultsDoNotDependOnUnwrittenBytes :
    (Instr.crc, Origin.crc) ∈ operations ∧ p3.ready = true ∧ operandsInPlace .crc p3 = true ∧
      answersNext (exec .crc p3) = true ∧ (Instr.parse, Origin.parse) ∈ operations ∧ operandsInPlace .parse p3 = true := by
  decide +kernel

end Sys2Proof.Tests
end

section
/-! PROOFS. What the commands leave of the outside, the parameters and the host's pending actions: said once for each
operation, of both fields together. -/

namespace Sys2Proof.Machine

/-! ### PARSE -/

@[simp] theorem finishWalk_outside (pos zlen : Nat) (s : State) :
    (finishWalk pos zlen s).cfg = s.cfg ∧ (finishWalk pos zlen s).inputs = s.inputs := by
  unfold finishWalk
  split <;> simp

@[simp] theorem ihdrChunk_outside (pos zlen : Nat) (s : State) :
    (ihdrChunk pos zlen s).cfg = s.cfg ∧ (ihdrChunk pos zlen s).inputs = s.inputs := by
  unfold ihdrChunk
  split
  · simp
  · split <;> simp

@[simp] theorem idatChunk_outside (pos zlen : Nat) (s : State) :
    (idatChunk pos zlen s).cfg = s.cfg ∧ (idatChunk pos zlen s).inputs = s.inputs := by
  unfold idatChunk
  split <;> simp

@[simp] theorem iendChunk_outside (pos zlen : Nat) (s : State) :
    (iendChunk pos zlen s).cfg = s.cfg ∧ (iendChunk pos zlen s).inputs = s.inputs := by
  simp [iendChunk]

@[simp] theorem skipChunk_outside (pos zlen : Nat) (s : State) :
    (skipChunk pos zlen s).cfg = s.cfg ∧ (skipChunk pos zlen s).inputs = s.inputs := ⟨rfl, rfl⟩

@[simp] theorem chunkAction_outside (tag : Word) (pos zlen : Nat) (s : State) :
    (chunkAction tag pos zlen s).cfg = s.cfg ∧ (chunkAction tag pos zlen s).inputs = s.inputs := by
  unfold chunkAction
  split_ifs <;> simp

@[simp] theorem walkStep_outside (pos zlen : Nat) (s : State) :
    (walkStep pos zlen s).cfg = s.cfg ∧ (walkStep pos zlen s).inputs = s.inputs := by
  unfold walkStep
  cases fetchChunk s pos <;> simp

@[simp] theorem walk_outside (n : Nat) (s : State) : (walk n s).cfg = s.cfg ∧ (walk n s).inputs = s.inputs := by
  induction n generalizing s with
  | zero => exact ⟨rfl, rfl⟩
  | succ n ih => cases hs : s.seq <;> simp [walk, hs, ih]

@[simp] theorem parseBody_outside (s : State) : (parseBody s).cfg = s.cfg ∧ (parseBody s).inputs = s.inputs := by
  unfold parseBody
  split_ifs <;> simp

/-! ### RECON -/

@[simp] theorem filterRow_outside (pred : Byte → Byte → Byte → Byte) (y : Nat) (prev : List Byte) (s : State) :
    (filterRow pred y prev s).cfg = s.cfg ∧ (filterRow pred y prev s).inputs = s.inputs := ⟨rfl, rfl⟩

@[simp] theorem illegalRow_outside (tag : Byte) (y : Nat) (s : State) :
    (illegalRow tag y s).cfg = s.cfg ∧ (illegalRow tag y s).inputs = s.inputs := ⟨rfl, rfl⟩

@[simp] theorem rowAction_outside (tag : Byte) (y : Nat) (prev : List Byte) (s : State) :
    (rowAction tag y prev s).cfg = s.cfg ∧ (rowAction tag y prev s).inputs = s.inputs := by
  unfold rowAction
  split_ifs <;> simp

@[simp] theorem finishRecon_outside (s : State) :
    (finishRecon s).cfg = s.cfg ∧ (finishRecon s).inputs = s.inputs := ⟨rfl, rfl⟩

@[simp] theorem rowStep_outside (y : Nat) (prev : List Byte) (s : State) :
    (rowStep y prev s).cfg = s.cfg ∧ (rowStep y prev s).inputs = s.inputs := by
  unfold rowStep
  split <;> simp

@[simp] theorem rows_outside (n : Nat) (s : State) : (rows n s).cfg = s.cfg ∧ (rows n s).inputs = s.inputs := by
  induction n generalizing s with
  | zero => exact ⟨rfl, rfl⟩
  | succ n ih => cases hs : s.seq <;> simp [rows, hs, ih]

@[simp] theorem reconBody_outside (s : State) : (reconBody s).cfg = s.cfg ∧ (reconBody s).inputs = s.inputs := by
  unfold reconBody
  split_ifs <;> simp

/-! ### The commands without turns -/

@[simp] theorem resizeBody_outside (s : State) : (resizeBody s).cfg = s.cfg ∧ (resizeBody s).inputs = s.inputs := by
  unfold resizeBody
  split_ifs <;> simp

@[simp] theorem packBody_outside (s : State) : (packBody s).cfg = s.cfg ∧ (packBody s).inputs = s.inputs := by
  unfold packBody
  split_ifs <;> simp

@[simp] theorem emitBody_outside (s : State) : (emitBody s).cfg = s.cfg ∧ (emitBody s).inputs = s.inputs := by
  unfold emitBody
  split_ifs <;> simp

@[simp] theorem crcBody_outside (s : State) : (crcBody s).cfg = s.cfg ∧ (crcBody s).inputs = s.inputs := by
  unfold crcBody
  split_ifs <;> simp

/-! ### Every instruction -/

theorem dispatch_outside {run : State → State} {s t : State}
    (hrun : ∀ u, (run u).cfg = u.cfg ∧ (run u).inputs = u.inputs) (h : dispatch run s = .next t) :
    t.cfg = s.cfg ∧ t.inputs = s.inputs := by
  obtain ⟨-, ⟨-, rfl⟩ | ⟨-, rfl⟩⟩ := dispatch_next h
  · exact ⟨rfl, rfl⟩
  · exact hrun s

theorem operation_outside {body : State → State} {s t : State}
    (hbody : ∀ u, (body u).cfg = u.cfg ∧ (body u).inputs = u.inputs) (h : operation body s = .next t) :
    t.cfg = s.cfg ∧ t.inputs = s.inputs :=
  dispatch_outside (fun u => hbody (acceptCommand u)) h

theorem control_outside {body : State → State} {s t : State}
    (hbody : ∀ u, (body u).cfg = u.cfg ∧ (body u).inputs = u.inputs) (h : control body s = .next t) :
    t.cfg = s.cfg ∧ t.inputs = s.inputs := by
  obtain ⟨-, rfl⟩ := control_next h
  exact hbody s

theorem whileWalking_outside {act : Nat → Nat → State → State} {s t : State}
    (hact : ∀ pos zlen u, (act pos zlen u).cfg = u.cfg ∧ (act pos zlen u).inputs = u.inputs)
    (h : whileWalking act s = .next t) : t.cfg = s.cfg ∧ t.inputs = s.inputs := by
  obtain ⟨pos, zlen, -, rfl⟩ := whileWalking_next h
  exact hact pos zlen s

theorem whileReconstructing_outside {act : Nat → List Byte → State → State} {s t : State}
    (hact : ∀ y prev u, (act y prev u).cfg = u.cfg ∧ (act y prev u).inputs = u.inputs)
    (h : whileReconstructing act s = .next t) : t.cfg = s.cfg ∧ t.inputs = s.inputs := by
  obtain ⟨y, prev, -, rfl⟩ := whileReconstructing_next h
  exact hact y prev s

/-- No instruction changes the parameters or takes an action off the host's list. -/
theorem exec_outside {i : Instr} {s t : State} (h : exec i s = .next t) : t.cfg = s.cfg ∧ t.inputs = s.inputs := by
  cases i with
  | parse => exact operation_outside parseBody_outside h
  | recon => exact operation_outside reconBody_outside h
  | resize => exact operation_outside resizeBody_outside h
  | pack => exact operation_outside packBody_outside h
  | emit => exact operation_outside emitBody_outside h
  | crc => exact operation_outside crcBody_outside h
  | clrerr => exact control_outside (by simp) h
  | rst => exact control_outside (by simp) h
  | cmdIllegal w => exact dispatch_outside (by simp) h
  | ihdr => exact whileWalking_outside ihdrChunk_outside h
  | idat => exact whileWalking_outside idatChunk_outside h
  | iend => exact whileWalking_outside iendChunk_outside h
  | chunkOther w => exact whileWalking_outside skipChunk_outside h
  | filtNone => exact whileReconstructing_outside (filterRow_outside predNone) h
  | filtSub => exact whileReconstructing_outside (filterRow_outside predSub) h
  | filtUp => exact whileReconstructing_outside (filterRow_outside predUp) h
  | filtAverage => exact whileReconstructing_outside (filterRow_outside predAverage) h
  | filtPaeth => exact whileReconstructing_outside (filterRow_outside paethPredictor) h
  | filtIllegal b => exact whileReconstructing_outside (fun y _ => illegalRow_outside b y) h

/-! ### The host's accesses -/

@[simp] theorem writeSlot_outside (s : State) (slot : Nat) (v : Word) :
    (writeSlot s slot v).cfg = s.cfg ∧ (writeSlot s slot v).inputs = s.inputs := by
  unfold writeSlot
  split <;> exact ⟨rfl, rfl⟩

/-- A host access, the reset among them, changes neither field: its action was taken off the list before. -/
theorem hostAccess_outside {a : Input} {s t : State} (h : hostAccess a s = .next t) :
    t.cfg = s.cfg ∧ t.inputs = s.inputs := by
  cases a with
  | writeReg slot v =>
    simp only [hostAccess] at h
    split at h <;> cases h
    simp
  | readReg slot =>
    simp only [hostAccess] at h
    split at h <;> cases h
    exact ⟨rfl, rfl⟩
  | writeByte id off v =>
    simp only [hostAccess] at h
    split_ifs at h
    cases h
    simp
  | readByte id off =>
    simp only [hostAccess] at h
    split_ifs at h
    cases h
    exact ⟨rfl, rfl⟩
  | reset =>
    cases h
    simp

end Sys2Proof.Machine
end

section
/-! PROOFS. 00_scope.md: the parameters (R6), and the commands as one step and as their own turns (R8). -/

namespace Sys2Proof.Machine

theorem resetPending_eq_false_iff (s : State) : resetPending s = false ↔ s.inputs.head? ≠ some .reset := by
  simp [resetPending]

/-- A step on an idle block leaves the parameters: it does nothing, runs an instruction, or makes one host access. -/
theorem step_idle_cfg {s t : State} (hs : s.seq = .idle) (h : step s = .next t) : t.cfg = s.cfg := by
  cases hi : s.inputs with
  | nil =>
    rw [step_idle hs hi] at h
    cases h
    rfl
  | cons a rest =>
    by_cases hreset : a = .reset
    · subst hreset
      rw [step_reset hi] at h
      cases h
      rfl
    · by_cases hcmd : ∃ v, a = .writeReg 0 v
      · obtain ⟨v, rfl⟩ := hcmd
        rw [step_command hs hi] at h
        exact (exec_outside h).1
      · rw [step_access hs hi hreset (not_exists.1 hcmd)] at h
        exact (hostAccess_outside h).1

/-- Settles O59: a step is hardware reset, a turn of a command under way, or a step of an idle block. -/
theorem parametersNeverChange : Obligations.ParametersNeverChange := by
  intro s t h
  cases hr : resetPending s with
  | true =>
    obtain ⟨rest, hi⟩ : ∃ rest, s.inputs = .reset :: rest := by
      simpa [resetPending, List.head?_eq_some_iff] using hr
    rw [step_reset hi] at h
    cases h
    rfl
  | false =>
    cases hs : s.seq with
    | idle => exact step_idle_cfg hs h
    | parse pos zlen =>
      rw [step_walking hs hr] at h
      cases h
      simp
    | recon y prev =>
      rw [step_reconstructing hs hr] at h
      cases h
      simp

/-- While no reset is the next input, the walk is so many steps: each turn is one step and leaves the host's list. -/
theorem stepsTo_walk (n : Nat) (s : State) (hr : resetPending s = false) : ∃ k, stepsTo k s (walk n s) := by
  induction n generalizing s with
  | zero => exact ⟨0, rfl⟩
  | succ n ih =>
    cases hs : s.seq with
    | parse pos zlen =>
      obtain ⟨k, hk⟩ := ih (walkStep pos zlen s) (by simpa [resetPending] using hr)
      exact ⟨k + 1, _, step_walking hs hr, by simpa [walk, hs] using hk⟩
    | idle => exact ⟨0, by simp [walk, hs, stepsTo]⟩
    | recon y prev => exact ⟨0, by simp [walk, hs, stepsTo]⟩

/-- The same of the row loop of RECON. -/
theorem stepsTo_rows (n : Nat) (s : State) (hr : resetPending s = false) : ∃ k, stepsTo k s (rows n s) := by
  induction n generalizing s with
  | zero => exact ⟨0, rfl⟩
  | succ n ih =>
    cases hs : s.seq with
    | recon y prev =>
      obtain ⟨k, hk⟩ := ih (rowStep y prev s) (by simpa [resetPending] using hr)
      exact ⟨k + 1, _, step_reconstructing hs hr, by simpa [rows, hs] using hk⟩
    | idle => exact ⟨0, by simp [rows, hs, stepsTo]⟩
    | parse pos zlen => exact ⟨0, by simp [rows, hs, stepsTo]⟩

/-- PARSE past its length check and its signature test is the walk (41_chunk_reader.md R151). -/
theorem stepsTo_parseBody {s : State} (hr : resetPending s = false) (hlen : s.regs.flen.toNat ≤ s.cfg.fbufCap.toNat)
    (hsig : signatureOk s = true) : ∃ n, stepsTo n (beginWalk s) (parseBody s) := by
  have hwalk : parseBody s = walk (s.regs.flen.toNat + 1) (beginWalk s) := by
    simp [parseBody, Nat.not_lt.2 hlen, hsig]
  rw [hwalk]
  exact stepsTo_walk _ (beginWalk s) hr

/-- RECON past its three checks is the row loop (42_scanline_reconstructor.md R181). -/
theorem stepsTo_reconBody {s : State} (hr : resetPending s = false) (hlen : s.regs.rlen.toNat ≤ s.cfg.rbufCap.toNat)
    (hgrid : 4 * s.regs.hdrWidth.toNat * s.regs.hdrHeight.toNat ≤ s.cfg.gridCap.toNat)
    (hstream : streamLength s.regs.hdrWidth.toNat s.regs.hdrHeight.toNat ≤ s.regs.rlen.toNat) :
    ∃ n, stepsTo n (beginRows s) (reconBody s) := by
  have hrows : reconBody s = rows (s.regs.hdrHeight.toNat + 1) (beginRows s) := by
    simp [reconBody, Nat.not_lt.2 hlen, Nat.not_lt.2 hgrid, Nat.not_lt.2 hstream]
  rw [hrows]
  exact stepsTo_rows _ (beginRows s) hr

/-- Settles O9: past its checks the command is its loop, and every turn of the loop is one step. -/
theorem commandsAreTheirOwnSteps : Obligations.CommandsAreTheirOwnSteps := by
  constructor
  · intro s hready hreset hlen hsig
    obtain ⟨n, hn⟩ := stepsTo_parseBody (s := acceptCommand s) ((resetPending_eq_false_iff s).2 hreset) hlen hsig
    exact ⟨n, _, operation_ready parseBody hready, hn⟩
  · intro s hready hreset hlen hgrid hstream
    obtain ⟨n, hn⟩ :=
      stepsTo_reconBody (s := acceptCommand s) ((resetPending_eq_false_iff s).2 hreset) hlen hgrid hstream
    exact ⟨n, _, operation_ready reconBody hready, hn⟩

end Sys2Proof.Machine
end

section
/-! PROOFS. 10_state.md R24, R25: an operation command ends with exactly one of DONE and ERR. -/

namespace Sys2Proof.Machine

/-- No error is recorded (10_state.md R25). -/
def State.errorFree (s : State) : Prop :=
  s.status.err = false ∧ s.regs.errCode = 0 ∧ s.regs.errPos = 0 ∧ s.regs.errInfo = 0

/-- How a command of an origin leaves the block (10_state.md R24, 60_exceptions.md R285): idle, and done or in error. -/
def State.endedBy (o : Origin) (t : State) : Prop :=
  t.seq = .idle ∧ t.status.busy = false ∧
    (t.status.done = true ∧ t.errorFree ∨
      t.status.done = false ∧ t.status.err = true ∧
        (o = .parse → t.status.hdrSeen = false ∧ t.status.endSeen = false))

theorem raiseError_endedBy (o : Origin) (e : Cause) (pos info : Nat) (s : State) :
    (raiseError o e pos info s).endedBy o :=
  ⟨rfl, rfl, .inr ⟨rfl, rfl, by rintro rfl; exact ⟨rfl, rfl⟩⟩⟩

theorem complete_endedBy (o : Origin) {s : State} (h : s.errorFree) : (complete s).endedBy o :=
  ⟨rfl, rfl, .inl ⟨rfl, h⟩⟩

/-- What holds between two turns of a command: it has ended, or it is under way and nothing has been raised. -/
def State.onTrack (o : Origin) (s : State) : Prop := s.endedBy o ∨ s.seq ≠ .idle ∧ s.errorFree

theorem onTrack_endedBy {o : Origin} {s : State} (h : s.onTrack o) (hs : s.seq = .idle) : s.endedBy o :=
  h.resolve_right fun ⟨hne, _⟩ => hne hs

theorem onTrack_errorFree {o : Origin} {s : State} (h : s.onTrack o) (hs : s.seq ≠ .idle) : s.errorFree :=
  (h.resolve_left fun ⟨hidle, _⟩ => hs hidle).2

/-! ### PARSE -/

theorem finishWalk_endedBy (pos zlen : Nat) {s : State} (h : s.errorFree) : (finishWalk pos zlen s).endedBy .parse := by
  unfold finishWalk
  split
  · exact complete_endedBy .parse h
  · exact raiseError_endedBy ..

theorem ihdrChunk_onTrack (pos zlen : Nat) {s : State} (h : s.errorFree) : (ihdrChunk pos zlen s).onTrack .parse := by
  unfold ihdrChunk
  split
  · exact .inl (raiseError_endedBy ..)
  split
  · exact .inl (raiseError_endedBy ..)
  · exact .inr ⟨nofun, h⟩

theorem idatChunk_onTrack (pos zlen : Nat) {s : State} (h : s.errorFree) : (idatChunk pos zlen s).onTrack .parse := by
  unfold idatChunk
  split
  · exact .inl (raiseError_endedBy ..)
  · exact .inr ⟨nofun, h⟩

theorem chunkAction_onTrack (tag : Word) (pos zlen : Nat) {s : State} (h : s.errorFree) :
    (chunkAction tag pos zlen s).onTrack .parse := by
  unfold chunkAction
  split
  · exact ihdrChunk_onTrack pos zlen h
  split
  · exact idatChunk_onTrack pos zlen h
  split
  · exact .inl (finishWalk_endedBy (s := setEndSeen s) _ _ h)
  · exact .inr ⟨nofun, h⟩

theorem walkStep_onTrack (pos zlen : Nat) {s : State} (h : s.errorFree) : (walkStep pos zlen s).onTrack .parse := by
  unfold walkStep
  cases fetchChunk s pos with
  | atEnd => exact .inl (finishWalk_endedBy pos zlen h)
  | truncated => exact .inl (raiseError_endedBy ..)
  | found tag => exact chunkAction_onTrack tag pos zlen h

theorem walk_onTrack (n : Nat) {s : State} (h : s.onTrack .parse) : (walk n s).onTrack .parse := by
  induction n generalizing s with
  | zero => exact h
  | succ n ih =>
    cases hs : s.seq with
    | parse pos zlen =>
      have herr : s.errorFree := onTrack_errorFree h (by simp [hs])
      simpa [walk, hs] using ih (walkStep_onTrack pos zlen herr)
    | idle => simpa [walk, hs] using h
    | recon y prev => simpa [walk, hs] using h

theorem signatureOk_flen {s : State} (h : signatureOk s = true) : 8 ≤ s.regs.flen.toNat := by
  simp only [signatureOk, Bool.and_eq_true, decide_eq_true_eq] at h
  exact h.1

theorem parseBody_endedBy {s : State} (h : s.errorFree) : (parseBody s).endedBy .parse := by
  unfold parseBody
  split
  · exact raiseError_endedBy ..
  split
  · next hsig =>
    have hend : (walk (s.regs.flen.toNat + 1) (beginWalk s)).seq = .idle :=
      walk_ends _ (beginWalk s) 8 0 rfl (by simp; omega) (signatureOk_flen hsig)
    exact onTrack_endedBy (walk_onTrack _ (.inr ⟨nofun, h⟩)) hend
  · exact raiseError_endedBy ..

/-! ### RECON -/

theorem rowAction_onTrack (tag : Byte) (y : Nat) (prev : List Byte) {s : State} (h : s.errorFree) :
    (rowAction tag y prev s).onTrack .recon := by
  have hfilter (pred : Byte → Byte → Byte → Byte) : (filterRow pred y prev s).onTrack .recon := .inr ⟨nofun, h⟩
  have hillegal : (illegalRow tag y s).onTrack .recon := .inl (raiseError_endedBy ..)
  unfold rowAction
  split_ifs
  · exact hfilter predNone
  · exact hfilter predSub
  · exact hfilter predUp
  · exact hfilter predAverage
  · exact hfilter paethPredictor
  · exact hillegal

theorem rowStep_onTrack (y : Nat) (prev : List Byte) {s : State} (h : s.errorFree) :
    (rowStep y prev s).onTrack .recon := by
  unfold rowStep
  split
  · exact rowAction_onTrack _ y prev h
  · exact .inl (complete_endedBy .recon h)

theorem rows_onTrack (n : Nat) {s : State} (h : s.onTrack .recon) : (rows n s).onTrack .recon := by
  induction n generalizing s with
  | zero => exact h
  | succ n ih =>
    cases hs : s.seq with
    | recon y prev =>
      have herr : s.errorFree := onTrack_errorFree h (by simp [hs])
      simpa [rows, hs] using ih (rowStep_onTrack y prev herr)
    | idle => simpa [rows, hs] using h
    | parse pos zlen => simpa [rows, hs] using h

theorem reconBody_endedBy {s : State} (h : s.errorFree) : (reconBody s).endedBy .recon := by
  unfold reconBody
  split
  · exact raiseError_endedBy ..
  split
  · exact raiseError_endedBy ..
  split
  · exact raiseError_endedBy ..
  · have hend : (rows (s.regs.hdrHeight.toNat + 1) (beginRows s)).seq = .idle :=
      (rows_end _ (beginRows s) 0 _ rfl (by simp)).resolve_right (Nat.not_lt_zero _)
    exact onTrack_endedBy (rows_onTrack _ (.inr ⟨nofun, h⟩)) hend

/-! ### The commands without turns: each branch of their rule raises or completes -/

theorem resizeBody_endedBy {s : State} (h : s.errorFree) : (resizeBody s).endedBy .resize := by
  unfold resizeBody
  split
  · exact raiseError_endedBy ..
  split
  · exact raiseError_endedBy ..
  split
  · exact raiseError_endedBy ..
  · exact complete_endedBy .resize h

theorem packBody_endedBy {s : State} (h : s.errorFree) : (packBody s).endedBy .pack := by
  unfold packBody
  split
  · exact raiseError_endedBy ..
  split
  · exact raiseError_endedBy ..
  · exact complete_endedBy .pack h

theorem emitBody_endedBy {s : State} (h : s.errorFree) : (emitBody s).endedBy .emit := by
  unfold emitBody
  split
  · exact raiseError_endedBy ..
  split
  · exact raiseError_endedBy ..
  · exact complete_endedBy .emit h

theorem crcBody_endedBy {s : State} (h : s.errorFree) : (crcBody s).endedBy .crc := by
  unfold crcBody
  split
  · exact raiseError_endedBy ..
  split
  · exact raiseError_endedBy ..
  · exact complete_endedBy .crc h

/-! ### The six operation commands -/

theorem operation_endedBy {o : Origin} {body : State → State} {s : State}
    (hbody : ∀ {u : State}, u.errorFree → (body u).endedBy o) (hready : s.ready = true) (h : s.errorFree) :
    ∃ t, operation body s = .next t ∧ t.endedBy o :=
  ⟨_, operation_ready body hready, hbody (u := acceptCommand s) h⟩

theorem mem_operations_iff (i : Instr) (o : Origin) :
    (i, o) ∈ operations ↔
      i = .parse ∧ o = .parse ∨ i = .recon ∧ o = .recon ∨ i = .resize ∧ o = .resize ∨ i = .pack ∧ o = .pack ∨
        i = .emit ∧ o = .emit ∨ i = .crc ∧ o = .crc := by
  simp [operations]

theorem exec_operation_endedBy {i : Instr} {o : Origin} {s : State} (hop : (i, o) ∈ operations)
    (hready : s.ready = true) (h : s.errorFree) : ∃ t, exec i s = .next t ∧ t.endedBy o := by
  rcases (mem_operations_iff i o).1 hop with
    ⟨rfl, rfl⟩ | ⟨rfl, rfl⟩ | ⟨rfl, rfl⟩ | ⟨rfl, rfl⟩ | ⟨rfl, rfl⟩ | ⟨rfl, rfl⟩
  · exact operation_endedBy parseBody_endedBy hready h
  · exact operation_endedBy reconBody_endedBy hready h
  · exact operation_endedBy resizeBody_endedBy hready h
  · exact operation_endedBy packBody_endedBy hready h
  · exact operation_endedBy emitBody_endedBy hready h
  · exact operation_endedBy crcBody_endedBy hready h

/-- Settles O20: every branch of a command's rule raises or completes, and the walk and the rows end. -/
theorem commandsEndDoneOrInError : Obligations.CommandsEndDoneOrInError := by
  intro s i o hop hready hcode hpos hinfo
  have herr : s.status.err = false := ((ready_iff s).1 hready).2.1
  obtain ⟨t, ht, hidle, hbusy, hend⟩ := exec_operation_endedBy hop hready ⟨herr, hcode, hpos, hinfo⟩
  refine ⟨t, ht, hidle, hbusy, hend.imp_right ?_⟩
  rintro ⟨hdone, herr', hseen⟩
  refine ⟨hdone, herr', ?_⟩
  rintro rfl
  exact hseen (by simpa [mem_operations_iff] using hop)

end Sys2Proof.Machine
end

section
/-! PROOFS. 10_state.md R20 to R22: the register space as the host reads and writes it. -/

namespace Sys2Proof.Machine

/-! ### Slots and registers -/

/-- The registers that a host write changes (10_state.md R21). -/
def Reg.isReadWrite : Reg → Bool
  | .flen | .zlen | .rlen | .hdrWidth | .hdrHeight | .sw | .sh | .tw | .th | .dw | .dh | .coff | .clen => true
  | .cmd | .status | .errCode | .errPos | .errInfo | .hdrBitDepth | .hdrColor | .hdrComp | .hdrFilter
  | .hdrInterlace | .crcVal => false

theorem Reg.ofSlot_eq_none {slot : Nat} (h : 24 ≤ slot) : Reg.ofSlot slot = none :=
  List.getElem?_eq_none h

theorem Reg.ofSlot_lt {slot : Nat} {r : Reg} (h : Reg.ofSlot slot = some r) : slot < 24 :=
  (List.getElem?_eq_some_iff.1 h).1

/-- No two slots hold the same register. -/
theorem Reg.ofSlot_inj {slot k : Nat} {r : Reg} (h : Reg.ofSlot slot = some r) (hk : Reg.ofSlot k = some r) : k = slot :=
  (List.getElem?_inj (Reg.ofSlot_lt hk) (by decide)).1 (hk.trans h.symm)

/-- The slots of the read-write registers (10_state.md R21). -/
theorem Reg.ofSlot_readWrite (slot : Nat) :
    slot ∈ [5, 6, 7, 8, 9, 15, 16, 17, 18, 19, 20, 21, 22] ↔ (Reg.ofSlot slot).any Reg.isReadWrite = true := by
  by_cases h : slot < 24
  · revert slot
    decide
  · have hnone : Reg.ofSlot slot = none := Reg.ofSlot_eq_none (Nat.le_of_not_lt h)
    simp [hnone]
    omega

/-! ### Reading a register after a write -/

theorem readReg_writeReg (s : State) (v : Word) (r k : Reg) :
    readReg { s with regs := writeReg s.regs v r } k = if k = r ∧ r.isReadWrite = true then v else readReg s k := by
  cases r <;> cases k <;> rfl

theorem writeReg_readOnly (rs : Regs) (v : Word) {r : Reg} (h : r.isReadWrite = false) : writeReg rs v r = rs := by
  cases r <;> cases h <;> rfl

theorem readSlot_of_ofSlot (s : State) {slot : Nat} {r : Reg} (h : Reg.ofSlot slot = some r) :
    readSlot s slot = readReg s r := by
  simp [readSlot, h]

theorem readSlot_of_none (s : State) {slot : Nat} (h : Reg.ofSlot slot = none) : readSlot s slot = 0 := by
  simp [readSlot, h]

theorem writeSlot_of_ofSlot (s : State) (v : Word) {slot : Nat} {r : Reg} (h : Reg.ofSlot slot = some r) :
    writeSlot s slot v = { s with regs := writeReg s.regs v r } := by
  simp [writeSlot, h]

/-- A write that reaches no read-write register is ignored (10_state.md R20, R21). -/
theorem writeSlot_ignored (s : State) (v : Word) {slot : Nat} (h : (Reg.ofSlot slot).any Reg.isReadWrite = false) :
    writeSlot s slot v = s := by
  cases hr : Reg.ofSlot slot with
  | none => simp [writeSlot, hr]
  | some r =>
    rw [writeSlot_of_ofSlot s v hr, writeReg_readOnly s.regs v (by simpa [hr] using h)]

/-- A write to the register of a slot leaves what every other slot reads. -/
theorem readSlot_writeReg_other (s : State) (v : Word) {slot k : Nat} {r : Reg} (h : Reg.ofSlot slot = some r)
    (hk : k ≠ slot) : readSlot { s with regs := writeReg s.regs v r } k = readSlot s k := by
  cases hq : Reg.ofSlot k with
  | none => rw [readSlot_of_none _ hq, readSlot_of_none _ hq]
  | some q =>
    have hne : q ≠ r := by
      rintro rfl
      exact hk (Reg.ofSlot_inj h hq)
    rw [readSlot_of_ofSlot _ hq, readSlot_of_ofSlot _ hq, readReg_writeReg, if_neg fun ⟨hqr, _⟩ => hne hqr]

/-! ### The step on a host access to a register -/

theorem step_writeReg {s : State} {slot : Nat} {v : Word} {rest : List Input} (hs : s.seq = .idle)
    (hb : s.status.busy = false) (h : s.inputs = .writeReg slot v :: rest) (h0 : slot ≠ 0) :
    step s = .next (writeSlot { s with inputs := rest } slot v) := by
  rw [step_access hs h nofun fun w hw => h0 (by injection hw)]
  simp [hostAccess, hb]

theorem step_readReg {s : State} {slot : Nat} {rest : List Input} (hs : s.seq = .idle) (hb : s.status.busy = false)
    (h : s.inputs = .readReg slot :: rest) : step s = .next { s with inputs := rest, rdata := readSlot s slot } := by
  rw [step_access hs h nofun nofun]
  simp only [hostAccess, hb]
  rfl

/-- Settles O11: the step is the write of the slot's register, which is one of the read-write registers or ignores it. -/
theorem hostRegisterWrites : Obligations.HostRegisterWrites := by
  intro s slot v rest hs hb hi h0
  rw [step_writeReg hs hb hi h0, Reg.ofSlot_readWrite]
  constructor
  · intro hrw
    obtain ⟨r, hr, hrw⟩ := (Option.any_eq_true ..).1 hrw
    refine ⟨writeReg s.regs v r, by rw [writeSlot_of_ofSlot _ v hr], ?_, fun k => readSlot_writeReg_other s v hr⟩
    rw [readSlot_of_ofSlot _ hr, readReg_writeReg, if_pos ⟨rfl, hrw⟩]
  · intro hro
    rw [writeSlot_ignored _ v (Bool.eq_false_iff.2 hro)]

/-- Settles O10: the register map by evaluation, and the step is the read of the slot. -/
theorem registerMapReads : Obligations.RegisterMapReads := by
  intro s
  refine ⟨rfl, ?_, ?_⟩
  · intro k hk
    exact readSlot_of_none s (Reg.ofSlot_eq_none hk)
  · intro k rest hs hb hi
    exact step_readReg hs hb hi

/-! ### STATUS -/

/-- The STATUS word has the flags for its binary digits (10_state.md R23). -/
theorem Status.toWord_eq_bits (st : Status) :
    Status.toWord st =
      BitVec.ofNat 32 (Nat.bit st.busy (Nat.bit st.done (Nat.bit st.err (Nat.bit st.hdrSeen (Nat.bit st.endSeen 0))))) := by
  simp only [Status.toWord, Nat.bit_val]
  congr 1
  omega

/-- Settles O13: digit by digit, and past the five digits every bit is 0. -/
theorem statusWordFields : Obligations.StatusWordFields := by
  intro st i
  rw [Status.toWord_eq_bits, BitVec.getLsbD_ofNat]
  match i with
  | 0 | 1 | 2 | 3 | 4 => simp [Nat.testBit_bit_succ]
  | i + 5 => simp [Nat.testBit_bit_succ]

end Sys2Proof.Machine
end

section
/-! PROOFS. 10_state.md R22, R50: the step runs what it decodes, and the two resets. -/

namespace Sys2Proof.Machine

/-! ### The decoded instruction -/

/-- A step with a whole chunk below FLEN at the cursor executes the chunk's tag (41_chunk_reader.md R151). -/
theorem step_tag {s : State} {pos zlen : Nat} (hs : s.seq = .parse pos zlen) (hr : resetPending s = false)
    (hb : nextChunk s pos ≤ s.regs.flen.toNat) : step s = exec (decode (.tag (chunkTag s pos))) s := by
  rw [step_walking hs hr, exec_decodeTag (chunkTag s pos) s pos zlen hs, walkStep, fetchChunk_found s pos hb]

/-- A step at a row below HDR_HEIGHT executes the row's filter tag (42_scanline_reconstructor.md R181). -/
theorem step_filter {s : State} {y : Nat} {prev : List Byte} (hs : s.seq = .recon y prev) (hr : resetPending s = false)
    (hy : y < s.regs.hdrHeight.toNat) : step s = exec (decode (.filter (rowTag s y))) s := by
  rw [step_reconstructing hs hr, exec_decodeFilter (rowTag s y) s y prev hs, rowStep, if_pos hy]

/-- Settles O6: one lemma for each place a step fetches a code from. -/
theorem stepRunsTheDecodedCode : Obligations.StepRunsTheDecodedCode := by
  refine ⟨?_, ?_, ?_⟩
  · intro s w rest hs hi
    exact step_command hs hi
  · intro s pos zlen hs hr hb
    exact step_tag hs ((resetPending_eq_false_iff s).2 hr) hb
  · intro s y prev hs hr hy
    exact step_filter hs ((resetPending_eq_false_iff s).2 hr) hy

/-! ### Reset -/

/-- Where the value registers and the flags are 0, every slot reads 0 (10_state.md R50). -/
theorem readSlot_zero {t : State} (hregs : t.regs = Regs.zero) (hstatus : t.status = Status.zero) (k : Nat) :
    readSlot t k = 0 := by
  cases hr : Reg.ofSlot k with
  | none => exact readSlot_of_none t hr
  | some r =>
    rw [readSlot_of_ofSlot t hr]
    cases r <;> simp only [readReg, hregs, hstatus] <;> rfl

@[simp] theorem Buffer.unspecified_written (n a : Nat) : (Buffer.unspecified n).written a = false := rfl

theorem hardwareReset_written (s : State) (id : BufId) (a : Nat) : ((hardwareReset s).buf id).written a = false := by
  cases id <;> exact Buffer.unspecified_written ..

theorem reset_written (id : BufId) (a : Nat) : (State.reset.buf id).written a = false := by
  cases id <;> exact Buffer.unspecified_written ..

theorem resetRegisters_buf (s : State) (id : BufId) : (resetRegisters s).buf id = s.buf id := by
  cases id <;> rfl

theorem exec_rst {s : State} (hb : s.status.busy = false) : exec .rst s = .next (resetRegisters s) := by
  simp [exec, execRst, control, hb]

/-- Settles O14: the three resets leave the same registers, and each its own buffers. -/
theorem resetsClearEveryRegister : Obligations.ResetsClearEveryRegister := by
  refine ⟨⟨readSlot_zero rfl rfl, rfl, reset_written⟩, ?_, ?_⟩
  · intro s rest hi
    exact ⟨_, step_reset hi, readSlot_zero rfl rfl, rfl, hardwareReset_written _, rfl⟩
  · intro s hb
    exact ⟨_, exec_rst hb, readSlot_zero rfl rfl, rfl, resetRegisters_buf s⟩

/-- After either reset the invariant is left to the buffers: the flags, the header and the sequencer are in order. -/
theorem inv_of_registers_zero {t : State} (hregs : t.regs = Regs.zero) (hstatus : t.status = Status.zero)
    (hseq : t.seq = .idle) (hbuf : t.buffersOk = true) : t.inv = true := by
  have hbyte : t.byteRegsOk = true := by simp [State.byteRegsOk, hregs, Regs.zero]
  have hheader : t.headerOk = true := by simp [State.headerOk, hstatus, Status.zero]
  have hflags : t.flagsOk = true := by simp [State.flagsOk, hregs, hstatus, Regs.zero, Status.zero]
  have hseqOk : t.seqOk = true := by simp [State.seqOk, hseq, hstatus, Status.zero]
  simp [State.inv, hbuf, hbyte, hheader, hflags, hseqOk]

/-- Settles O56: the registers are 0, and an empty buffer is within every capacity. -/
theorem resetMeetsTheInvariant : Obligations.ResetMeetsTheInvariant := by
  intro c script
  exact inv_of_registers_zero rfl rfl rfl rfl

end Sys2Proof.Machine
end

section
/-! PROOFS. 20_memory.md R66, R67: an operation command, however it ends, changes only its own outputs. Said once for each
turn of PARSE and of RECON, then for each command. -/

namespace Sys2Proof.Machine

theorem onlyOutputsDiffer_refl (o : Origin) (s : State) : onlyOutputsDiffer o s s := by
  cases o <;> first | rfl | exact ⟨rfl, rfl, rfl⟩

theorem acceptCommand_onlyOutputs (o : Origin) (s : State) : onlyOutputsDiffer o s (acceptCommand s) := by
  cases o <;> first | rfl | exact ⟨rfl, rfl, rfl⟩

theorem complete_onlyOutputs {o : Origin} {s t : State} (h : onlyOutputsDiffer o s t) :
    onlyOutputsDiffer o s (complete t) :=
  onlyOutputsDiffer_trans h (by cases o <;> first | rfl | exact ⟨rfl, rfl, rfl⟩)

/-! ### PARSE -/

theorem finishWalk_onlyOutputs (pos zlen : Nat) (s : State) : onlyOutputsDiffer .parse s (finishWalk pos zlen s) := by
  unfold finishWalk
  split
  · rfl
  · exact raiseError_onlyOutputs ..

theorem loadHeader_onlyOutputs (pos : Nat) (s : State) : onlyOutputsDiffer .parse s (loadHeader pos s) := rfl

theorem ihdrChunk_onlyOutputs (pos zlen : Nat) (s : State) : onlyOutputsDiffer .parse s (ihdrChunk pos zlen s) := by
  unfold ihdrChunk
  split
  · exact raiseError_onlyOutputs ..
  split
  · exact onlyOutputsDiffer_trans (loadHeader_onlyOutputs pos s) (raiseError_onlyOutputs ..)
  · rfl

theorem idatChunk_onlyOutputs (pos zlen : Nat) (s : State) : onlyOutputsDiffer .parse s (idatChunk pos zlen s) := by
  unfold idatChunk
  split
  · exact raiseError_onlyOutputs ..
  · rfl

theorem iendChunk_onlyOutputs (pos zlen : Nat) (s : State) : onlyOutputsDiffer .parse s (iendChunk pos zlen s) :=
  onlyOutputsDiffer_trans (t := setEndSeen s) rfl (finishWalk_onlyOutputs ..)

theorem skipChunk_onlyOutputs (pos zlen : Nat) (s : State) : onlyOutputsDiffer .parse s (skipChunk pos zlen s) := rfl

theorem chunkAction_onlyOutputs (tag : Word) (pos zlen : Nat) (s : State) :
    onlyOutputsDiffer .parse s (chunkAction tag pos zlen s) := by
  unfold chunkAction
  split_ifs
  · exact ihdrChunk_onlyOutputs pos zlen s
  · exact idatChunk_onlyOutputs pos zlen s
  · exact iendChunk_onlyOutputs pos zlen s
  · exact skipChunk_onlyOutputs pos zlen s

theorem walkStep_onlyOutputs (pos zlen : Nat) (s : State) : onlyOutputsDiffer .parse s (walkStep pos zlen s) := by
  unfold walkStep
  cases fetchChunk s pos with
  | atEnd => exact finishWalk_onlyOutputs pos zlen s
  | truncated => exact raiseError_onlyOutputs ..
  | found tag => exact chunkAction_onlyOutputs tag pos zlen s

theorem walk_onlyOutputs (n : Nat) (s : State) : onlyOutputsDiffer .parse s (walk n s) := by
  induction n generalizing s with
  | zero => exact onlyOutputsDiffer_refl .parse s
  | succ n ih =>
    cases hs : s.seq with
    | parse pos zlen =>
      simpa only [walk, hs] using onlyOutputsDiffer_trans (walkStep_onlyOutputs pos zlen s) (ih _)
    | idle => simpa only [walk, hs] using onlyOutputsDiffer_refl .parse s
    | recon y prev => simpa only [walk, hs] using onlyOutputsDiffer_refl .parse s

theorem parseBody_onlyOutputs (s : State) : onlyOutputsDiffer .parse s (parseBody s) := by
  unfold parseBody
  split
  · exact raiseError_onlyOutputs ..
  split
  · exact onlyOutputsDiffer_trans (t := beginWalk s) rfl (walk_onlyOutputs ..)
  · exact onlyOutputsDiffer_trans (t := clearSeen s) rfl (raiseError_onlyOutputs ..)

/-! ### RECON -/

theorem filterRow_onlyOutputs (pred : Byte → Byte → Byte → Byte) (y : Nat) (prev : List Byte) (s : State) :
    onlyOutputsDiffer .recon s (filterRow pred y prev s) := ⟨rfl, rfl, rfl⟩

theorem illegalRow_onlyOutputs (tag : Byte) (y : Nat) (s : State) :
    onlyOutputsDiffer .recon s (illegalRow tag y s) :=
  raiseError_onlyOutputs ..

theorem rowAction_onlyOutputs (tag : Byte) (y : Nat) (prev : List Byte) (s : State) :
    onlyOutputsDiffer .recon s (rowAction tag y prev s) := by
  unfold rowAction
  split_ifs
  · exact filterRow_onlyOutputs predNone y prev s
  · exact filterRow_onlyOutputs predSub y prev s
  · exact filterRow_onlyOutputs predUp y prev s
  · exact filterRow_onlyOutputs predAverage y prev s
  · exact filterRow_onlyOutputs paethPredictor y prev s
  · exact illegalRow_onlyOutputs tag y s

theorem rowStep_onlyOutputs (y : Nat) (prev : List Byte) (s : State) :
    onlyOutputsDiffer .recon s (rowStep y prev s) := by
  unfold rowStep
  split
  · exact rowAction_onlyOutputs _ y prev s
  · exact ⟨rfl, rfl, rfl⟩

theorem rows_onlyOutputs (n : Nat) (s : State) : onlyOutputsDiffer .recon s (rows n s) := by
  induction n generalizing s with
  | zero => exact onlyOutputsDiffer_refl .recon s
  | succ n ih =>
    cases hs : s.seq with
    | recon y prev =>
      simpa only [rows, hs] using onlyOutputsDiffer_trans (rowStep_onlyOutputs y prev s) (ih _)
    | idle => simpa only [rows, hs] using onlyOutputsDiffer_refl .recon s
    | parse pos zlen => simpa only [rows, hs] using onlyOutputsDiffer_refl .recon s

theorem reconBody_onlyOutputs (s : State) : onlyOutputsDiffer .recon s (reconBody s) := by
  unfold reconBody
  split
  · exact raiseError_onlyOutputs ..
  split
  · exact raiseError_onlyOutputs ..
  split
  · exact raiseError_onlyOutputs ..
  · exact onlyOutputsDiffer_trans (t := beginRows s) ⟨rfl, rfl, rfl⟩ (rows_onlyOutputs ..)

/-! ### The commands without turns: each branch of their rule raises, or writes the outputs and completes -/

theorem resizeBody_onlyOutputs (s : State) : onlyOutputsDiffer .resize s (resizeBody s) := by
  unfold resizeBody
  split
  · exact raiseError_onlyOutputs ..
  split
  · exact raiseError_onlyOutputs ..
  split
  · exact raiseError_onlyOutputs ..
  · exact complete_onlyOutputs ⟨rfl, rfl, rfl⟩

theorem packBody_onlyOutputs (s : State) : onlyOutputsDiffer .pack s (packBody s) := by
  unfold packBody
  split
  · exact raiseError_onlyOutputs ..
  split
  · exact raiseError_onlyOutputs ..
  · exact complete_onlyOutputs ⟨rfl, rfl, rfl⟩

/-- EMIT's outputs as variables: what is written plays no part. -/
theorem emitOutputs_onlyOutputs (s : State) (file : Buffer) (n : Word) :
    onlyOutputsDiffer .emit s { s with fbuf := file, regs := { s.regs with flen := n } } := ⟨rfl, rfl, rfl⟩

theorem emitBody_onlyOutputs (s : State) : onlyOutputsDiffer .emit s (emitBody s) := by
  unfold emitBody
  split
  · exact raiseError_onlyOutputs ..
  split
  · exact raiseError_onlyOutputs ..
  · exact complete_onlyOutputs (emitOutputs_onlyOutputs ..)

theorem crcBody_onlyOutputs (s : State) : onlyOutputsDiffer .crc s (crcBody s) := by
  unfold crcBody
  split
  · exact raiseError_onlyOutputs ..
  split
  · exact raiseError_onlyOutputs ..
  · exact complete_onlyOutputs ⟨rfl, rfl, rfl⟩

/-! ### The six operation commands -/

theorem operation_onlyOutputs {o : Origin} {body : State → State} {s : State}
    (hbody : ∀ u, onlyOutputsDiffer o u (body u)) (hready : s.ready = true) :
    ∃ t, operation body s = .next t ∧ onlyOutputsDiffer o s t :=
  ⟨_, operation_ready body hready, onlyOutputsDiffer_trans (acceptCommand_onlyOutputs o s) (hbody _)⟩

/-- Settles O19: accepting the command and every turn of its rule touch only its outputs, and such changes compose. -/
theorem commandsChangeOnlyTheirOutputs : Obligations.CommandsChangeOnlyTheirOutputs := by
  intro s i o hop hready
  rcases (mem_operations_iff i o).1 hop with
    ⟨rfl, rfl⟩ | ⟨rfl, rfl⟩ | ⟨rfl, rfl⟩ | ⟨rfl, rfl⟩ | ⟨rfl, rfl⟩ | ⟨rfl, rfl⟩
  · exact operation_onlyOutputs parseBody_onlyOutputs hready
  · exact operation_onlyOutputs reconBody_onlyOutputs hready
  · exact operation_onlyOutputs resizeBody_onlyOutputs hready
  · exact operation_onlyOutputs packBody_onlyOutputs hready
  · exact operation_onlyOutputs emitBody_onlyOutputs hready
  · exact operation_onlyOutputs crcBody_onlyOutputs hready

end Sys2Proof.Machine
end

section
/-! PROOFS. 20_memory.md R74 to R76: the host reads and writes one byte of a buffer. -/

namespace Sys2Proof.Machine

theorem step_writeByte {s : State} {id : BufId} {off : Nat} {v : Byte} {rest : List Input} (hs : s.seq = .idle)
    (hb : s.status.busy = false) (h : s.inputs = .writeByte id off v :: rest) (hoff : off < capacityOf s.cfg id) :
    step s = .next ({ s with inputs := rest }.setBuf id ((s.buf id).write off v)) := by
  rw [step_access hs h nofun nofun]
  simp only [hostAccess, hb, hoff]
  cases id <;> rfl

theorem step_writeByte_beyond {s : State} {id : BufId} {off : Nat} {v : Byte} {rest : List Input} (hs : s.seq = .idle)
    (hb : s.status.busy = false) (h : s.inputs = .writeByte id off v :: rest) (hoff : capacityOf s.cfg id ≤ off) :
    step s = .fault (.noSuchByte id off) := by
  rw [step_access hs h nofun nofun]
  simp [hostAccess, hb, Nat.not_lt.2 hoff]

theorem step_readByte {s : State} {id : BufId} {off : Nat} {rest : List Input} (hs : s.seq = .idle)
    (hb : s.status.busy = false) (h : s.inputs = .readByte id off :: rest) (hoff : off < capacityOf s.cfg id) :
    step s = .next { s with inputs := rest, rdata := ((s.buf id).read off).setWidth 32 } := by
  rw [step_access hs h nofun nofun]
  simp only [hostAccess, hb, hoff]
  cases id <;> rfl

theorem step_readByte_beyond {s : State} {id : BufId} {off : Nat} {rest : List Input} (hs : s.seq = .idle)
    (hb : s.status.busy = false) (h : s.inputs = .readByte id off :: rest) (hoff : capacityOf s.cfg id ≤ off) :
    step s = .fault (.noSuchByte id off) := by
  rw [step_access hs h nofun nofun]
  simp [hostAccess, hb, Nat.not_lt.2 hoff]

/-- Settles O12: one lemma for each access on each side of the capacity; a canonical buffer reads back what was written. -/
theorem hostByteAccesses : Obligations.HostByteAccesses := by
  intro s id off rest hs hb hwf
  refine ⟨fun v hi => ⟨fun hoff => ?_, step_writeByte_beyond hs hb hi⟩, fun hi =>
    ⟨step_readByte hs hb hi, step_readByte_beyond hs hb hi⟩⟩
  refine ⟨(s.buf id).write off v, step_writeByte hs hb hi hoff, ?_, fun a ha => ?_⟩
  · rw [Buffer.read_write _ _ _ _ hwf, if_pos rfl]
  · rw [Buffer.read_write _ _ _ _ hwf, if_neg ha]

end Sys2Proof.Machine
end

section
/-! PROOFS. 20_memory.md R60 with 10_state.md R21 to R27, R40: every step keeps the invariant. What the buffers and the
header registers owe holds also between the turns of a command (`Sound`); a command under way adds its flags (`Running`), and
each way of ending it, `raiseError` and `complete`, gives the invariant back. -/

namespace Sys2Proof.Machine

/-! ### One buffer within its capacity -/

@[simp] theorem bufferOk_unspecified (cap seed : Nat) : bufferOk cap (Buffer.unspecified seed) = true := rfl

theorem bufferOk_writeBytes {cap a : Nat} {b : Buffer} {l : List Byte} (h : bufferOk cap b = true)
    (ha : a + l.length ≤ cap) : bufferOk cap (b.writeBytes a l) = true := by
  simp only [bufferOk, Bool.and_eq_true] at h ⊢
  obtain ⟨hwf, hbelow⟩ := h
  exact ⟨Buffer.writeBytes_wf b a l hwf, Buffer.writeBytes_below b a cap l hbelow ha⟩

theorem bufferOk_writeBytes_zero {cap n : Nat} {b : Buffer} {l : List Byte} (h : bufferOk cap b = true)
    (hl : l.length = n) (hn : n ≤ cap) : bufferOk cap (b.writeBytes 0 l) = true :=
  bufferOk_writeBytes h (by omega)

theorem bufferOk_write {cap a : Nat} {b : Buffer} {v : Byte} (h : bufferOk cap b = true) (ha : a < cap) :
    bufferOk cap (b.write a v) = true :=
  bufferOk_writeBytes (l := [v]) h ha

/-! ### The invariant, taken apart -/

/-- What the invariant says of the buffers and of the header registers, which no flag but HDR_SEEN has a part in. -/
structure State.Sound (s : State) : Prop where
  fbuf : bufferOk s.cfg.fbufCap.toNat s.fbuf = true
  zbuf : bufferOk s.cfg.zbufCap.toNat s.zbuf = true
  rbuf : bufferOk s.cfg.rbufCap.toNat s.rbuf = true
  gsrc : bufferOk s.cfg.gridCap.toNat s.gsrc = true
  gdst : bufferOk s.cfg.gridCap.toNat s.gdst = true
  byteRegs : s.byteRegsOk = true
  header : s.headerOk = true

theorem inv_iff (s : State) : s.inv = true ↔ s.Sound ∧ s.flagsOk = true ∧ s.seqOk = true := by
  simp only [State.inv, State.buffersOk, Bool.and_eq_true]
  constructor
  · rintro ⟨⟨⟨⟨⟨⟨⟨⟨hf, hz⟩, hr⟩, hs⟩, hd⟩, hbyte⟩, hheader⟩, hflags⟩, hseq⟩
    exact ⟨⟨hf, hz, hr, hs, hd, hbyte, hheader⟩, hflags, hseq⟩
  · rintro ⟨⟨hf, hz, hr, hs, hd, hbyte, hheader⟩, hflags, hseq⟩
    exact ⟨⟨⟨⟨⟨⟨⟨⟨hf, hz⟩, hr⟩, hs⟩, hd⟩, hbyte⟩, hheader⟩, hflags⟩, hseq⟩

/-- A command is under way and has raised nothing: what its rule may rely on wherever it stands. -/
structure State.Running (s : State) : Prop extends s.Sound where
  busy : s.status.busy = true
  notDone : s.status.done = false
  errorFree : s.errorFree

theorem running_inv {s : State} (h : s.Running) (hseq : s.seqOk = true) : s.inv = true := by
  obtain ⟨herr, hcode, hpos, hinfo⟩ := h.errorFree
  have hflags : s.flagsOk = true := by simp [State.flagsOk, h.notDone, herr, hcode, hpos, hinfo]
  exact (inv_iff s).2 ⟨h.toSound, hflags, hseq⟩

theorem flagsOk_errorFree {s : State} (h : s.flagsOk = true) (herr : s.status.err = false) : s.errorFree := by
  simp only [State.flagsOk, herr, Bool.false_eq_true, if_false, Bool.and_eq_true, beq_iff_eq] at h
  obtain ⟨-, ⟨hcode, hpos⟩, hinfo⟩ := h
  exact ⟨herr, hcode, hpos, hinfo⟩

theorem flagsOk_busy {s : State} (h : s.flagsOk = true) (hb : s.status.busy = true) :
    s.status.done = false ∧ s.status.err = false := by
  simp only [State.flagsOk, hb, Bool.true_and, Bool.and_eq_true, Bool.not_eq_true'] at h
  obtain ⟨⟨⟨-, hdone⟩, herr⟩, -⟩ := h
  exact ⟨hdone, herr⟩

/-- BUSY = 1 just while a command is under way (10_state.md R23). -/
theorem seqOk_busy_iff {s : State} (h : s.seqOk = true) : s.status.busy = true ↔ s.seq ≠ .idle := by
  unfold State.seqOk at h
  split at h <;> simp_all

theorem inv_running {s : State} (h : s.inv = true) (hs : s.seq ≠ .idle) : s.Running := by
  obtain ⟨hsound, hflags, hseq⟩ := (inv_iff s).1 h
  have hbusy : s.status.busy = true := (seqOk_busy_iff hseq).2 hs
  obtain ⟨hdone, herr⟩ := flagsOk_busy hflags hbusy
  exact { hsound with busy := hbusy, notDone := hdone, errorFree := flagsOk_errorFree hflags herr }

theorem acceptCommand_running {s : State} (h : s.inv = true) (herr : s.status.err = false) :
    (acceptCommand s).Running := by
  obtain ⟨hsound, hflags, -⟩ := (inv_iff s).1 h
  exact { hsound with busy := rfl, notDone := rfl, errorFree := flagsOk_errorFree (s := s) hflags herr }

/-! ### The two ways a command ends -/

theorem raiseError_sound (o : Origin) (e : Cause) (pos info : Nat) {s : State} (h : s.Sound) :
    (raiseError o e pos info s).Sound := by
  cases o with
  | parse =>
    have hbyte : (raiseError .parse e pos info s).byteRegsOk = true := by
      simp [State.byteRegsOk, raiseError, unspecifyOutputs]
    exact { h with zbuf := bufferOk_unspecified .., byteRegs := hbyte, header := rfl }
  | recon => exact { h with gsrc := bufferOk_unspecified .. }
  | resize => exact { h with gdst := bufferOk_unspecified .. }
  | pack => exact { h with rbuf := bufferOk_unspecified .. }
  | emit => exact { h with fbuf := bufferOk_unspecified .. }
  | crc => exact { h with }
  | dispatcher => exact { h with }

theorem raiseError_inv (o : Origin) (e : Cause) (pos info : Nat) {s : State} (h : s.Sound) :
    (raiseError o e pos info s).inv = true := by
  have hflags : (raiseError o e pos info s).flagsOk = true := by
    simpa [State.flagsOk] using e.code_produced
  exact (inv_iff _).2 ⟨raiseError_sound o e pos info h, hflags, rfl⟩

theorem complete_inv {s : State} (h : s.Sound) (herr : s.errorFree) : (complete s).inv = true := by
  obtain ⟨herr, hcode, hpos, hinfo⟩ := herr
  have hflags : (complete s).flagsOk = true := by simp [State.flagsOk, herr, hcode, hpos, hinfo]
  exact (inv_iff _).2 ⟨{ h with }, hflags, rfl⟩

/-! ### PARSE -/

/-- The cursors of the walk within their bounds (10_state.md R40). -/
theorem seqOk_parse_iff {s : State} {pos zlen : Nat} (hs : s.seq = .parse pos zlen) :
    s.seqOk = true ↔
      s.status.busy = true ∧ 8 ≤ pos ∧ pos ≤ s.regs.flen.toNat ∧ s.regs.flen.toNat ≤ s.cfg.fbufCap.toNat ∧
        zlen ≤ s.cfg.zbufCap.toNat := by
  simp [State.seqOk, hs, and_assoc]

theorem finishWalk_inv (pos zlen : Nat) {s : State} (h : s.Running) : (finishWalk pos zlen s).inv = true := by
  unfold finishWalk
  split
  · exact complete_inv { h with } h.errorFree
  · exact raiseError_inv _ _ _ _ h.toSound

theorem loadHeader_byteRegsOk (pos : Nat) (s : State) : (loadHeader pos s).byteRegsOk = true := by
  simp only [State.byteRegsOk, loadHeader, BitVec.toNat_setWidth, Bool.and_eq_true, decide_eq_true_eq]
  omega

theorem failBit_eq_zero_iff {failing : Bool} {bit : Nat} (h : bit ≠ 0) : failBit failing bit = 0 ↔ failing = false := by
  cases failing <;> simp [failBit, h]

/-- A header that fails no check is the one HDR_SEEN stands for (41_chunk_reader.md R158, 10_state.md R27). -/
theorem setHdrSeen_loadHeader_headerOk {pos : Nat} {s : State} (h : headerCheck s pos = 0) :
    (setHdrSeen (loadHeader pos s)).headerOk = true := by
  simp only [headerCheck, headerMask, Nat.add_eq_zero_iff, ne_eq, OfNat.ofNat_ne_zero, one_ne_zero, not_false_eq_true,
    failBit_eq_zero_iff, bne_eq_false_iff_eq] at h
  obtain ⟨⟨⟨⟨hdepth, hcolor⟩, hcomp⟩, hfilter⟩, hinterlace⟩ := h
  simp [State.headerOk, loadHeader, hdepth, hcolor, hcomp, hfilter, hinterlace]

/-- An error of PARSE leaves nothing of the header loaded before it (60_exceptions.md R286). -/
theorem raiseError_parse_loadHeader (e : Cause) (epos info pos : Nat) (s : State) :
    raiseError .parse e epos info (loadHeader pos s) = raiseError .parse e epos info s := rfl

/-- PARSE stands at a whole chunk (41_chunk_reader.md R154), its cursors within their bounds before and after it. -/
structure State.AtChunk (s : State) (pos zlen : Nat) : Prop extends s.Running where
  next_ge : 8 ≤ nextChunk s pos
  next_le : nextChunk s pos ≤ s.regs.flen.toNat
  flen_le : s.regs.flen.toNat ≤ s.cfg.fbufCap.toNat
  zlen_le : zlen ≤ s.cfg.zbufCap.toNat

theorem atChunk_of_found {s : State} {pos zlen : Nat} {tag : Word} (h : s.inv = true) (hs : s.seq = .parse pos zlen)
    (hfound : fetchChunk s pos = .found tag) : s.AtChunk pos zlen := by
  obtain ⟨-, -, hseq⟩ := (inv_iff s).1 h
  obtain ⟨-, hpos, -, hcap, hz⟩ := (seqOk_parse_iff hs).1 hseq
  obtain ⟨hnext, -⟩ := fetchChunk_found_bound hfound
  have hge := nextChunk_ge s pos
  exact { inv_running h (by simp [hs]) with next_ge := by omega, next_le := hnext, flen_le := hcap, zlen_le := hz }

theorem ihdrChunk_inv {s : State} {pos zlen : Nat} (h : s.AtChunk pos zlen) : (ihdrChunk pos zlen s).inv = true := by
  unfold ihdrChunk
  split
  · exact raiseError_inv _ _ _ _ h.toSound
  split
  · rw [raiseError_parse_loadHeader]
    exact raiseError_inv _ _ _ _ h.toSound
  · next hcheck =>
    exact running_inv
      { h with
        byteRegs := loadHeader_byteRegsOk pos s
        header := setHdrSeen_loadHeader_headerOk (not_not.1 hcheck) }
      ((seqOk_parse_iff rfl).2 ⟨h.busy, h.next_ge, h.next_le, h.flen_le, h.zlen_le⟩)

theorem idatChunk_inv {s : State} {pos zlen : Nat} (h : s.AtChunk pos zlen) : (idatChunk pos zlen s).inv = true := by
  unfold idatChunk
  split
  · exact raiseError_inv _ _ _ _ h.toSound
  · next hcap =>
    have hroom : zlen + (payload s pos).length ≤ s.cfg.zbufCap.toNat := by
      rw [payload, Buffer.readBytes_length]
      omega
    exact running_inv { h with zbuf := bufferOk_writeBytes h.zbuf hroom }
      ((seqOk_parse_iff rfl).2 ⟨h.busy, h.next_ge, h.next_le, h.flen_le, Nat.le_of_not_lt hcap⟩)

theorem iendChunk_inv {s : State} (pos zlen : Nat) (h : s.Running) : (iendChunk pos zlen s).inv = true :=
  finishWalk_inv _ zlen { h with }

theorem skipChunk_inv {s : State} {pos zlen : Nat} (h : s.AtChunk pos zlen) : (skipChunk pos zlen s).inv = true :=
  running_inv { h with } ((seqOk_parse_iff rfl).2 ⟨h.busy, h.next_ge, h.next_le, h.flen_le, h.zlen_le⟩)

theorem chunkAction_inv (tag : Word) {s : State} {pos zlen : Nat} (h : s.AtChunk pos zlen) :
    (chunkAction tag pos zlen s).inv = true := by
  unfold chunkAction
  split_ifs
  · exact ihdrChunk_inv h
  · exact idatChunk_inv h
  · exact iendChunk_inv pos zlen h.toRunning
  · exact skipChunk_inv h

theorem walkStep_inv {s : State} {pos zlen : Nat} (h : s.inv = true) (hs : s.seq = .parse pos zlen) :
    (walkStep pos zlen s).inv = true := by
  have hrun : s.Running := inv_running h (by simp [hs])
  unfold walkStep
  cases hf : fetchChunk s pos with
  | atEnd => exact finishWalk_inv pos zlen hrun
  | truncated => exact raiseError_inv _ _ _ _ hrun.toSound
  | found tag => exact chunkAction_inv tag (atChunk_of_found h hs hf)

theorem walk_inv (n : Nat) {s : State} (h : s.inv = true) : (walk n s).inv = true := by
  induction n generalizing s with
  | zero => exact h
  | succ n ih =>
    cases hs : s.seq with
    | parse pos zlen => simpa only [walk, hs] using ih (walkStep_inv h hs)
    | idle => simpa only [walk, hs] using h
    | recon y prev => simpa only [walk, hs] using h

theorem parseBody_inv {s : State} (h : s.Running) : (parseBody s).inv = true := by
  unfold parseBody
  split
  · exact raiseError_inv _ _ _ _ h.toSound
  next hlen =>
  split
  · next hsig =>
    have hbegin : (beginWalk s).inv = true :=
      running_inv { h with header := rfl }
        ((seqOk_parse_iff rfl).2 ⟨h.busy, le_rfl, signatureOk_flen hsig, Nat.le_of_not_lt hlen, Nat.zero_le _⟩)
    exact walk_inv _ hbegin
  · exact raiseError_inv _ _ _ _ { h with header := rfl }

/-! ### RECON -/

/-- The row index, PREV and the image within their bounds (10_state.md R40, R46). -/
theorem seqOk_recon_iff {s : State} {y : Nat} {prev : List Byte} (hs : s.seq = .recon y prev) :
    s.seqOk = true ↔
      s.status.busy = true ∧ y ≤ s.regs.hdrHeight.toNat ∧ prev.length = stride s.regs.hdrWidth.toNat ∧
        4 * s.regs.hdrWidth.toNat * s.regs.hdrHeight.toNat ≤ s.cfg.gridCap.toNat ∧
        streamLength s.regs.hdrWidth.toNat s.regs.hdrHeight.toNat ≤ s.regs.rlen.toNat ∧
        s.regs.rlen.toNat ≤ s.cfg.rbufCap.toNat := by
  simp [State.seqOk, hs, and_assoc]

/-- A row below HDR_HEIGHT ends within the grid. -/
theorem row_end_le {w h y : Nat} (hy : y < h) : y * stride w + stride w ≤ 4 * w * h := by
  calc y * stride w + stride w = (y + 1) * stride w := (Nat.succ_mul ..).symm
    _ ≤ h * stride w := Nat.mul_le_mul_right _ hy
    _ = 4 * w * h := Nat.mul_comm ..

theorem filterRow_inv (pred : Byte → Byte → Byte → Byte) {s : State} {y : Nat} {prev : List Byte} (h : s.inv = true)
    (hs : s.seq = .recon y prev) (hy : y < s.regs.hdrHeight.toNat) : (filterRow pred y prev s).inv = true := by
  obtain ⟨-, -, hseq⟩ := (inv_iff s).1 h
  obtain ⟨hbusy, -, -, hgrid, hstream, hrlen⟩ := (seqOk_recon_iff hs).1 hseq
  have hrun : s.Running := inv_running h (by simp [hs])
  have hrow : (reconBytes pred prev [] (rawRow s y)).length = stride s.regs.hdrWidth.toNat := by
    rw [reconBytes_length, rawRow_length, List.length_nil, Nat.zero_add]
  have hroom :
      y * stride s.regs.hdrWidth.toNat + (reconBytes pred prev [] (rawRow s y)).length ≤ s.cfg.gridCap.toNat := by
    rw [hrow]
    exact (row_end_le hy).trans hgrid
  exact running_inv { hrun with gsrc := bufferOk_writeBytes hrun.gsrc hroom }
    ((seqOk_recon_iff rfl).2 ⟨hbusy, hy, hrow, hgrid, hstream, hrlen⟩)

theorem illegalRow_inv (tag : Byte) (y : Nat) {s : State} (h : s.Sound) : (illegalRow tag y s).inv = true :=
  raiseError_inv _ _ _ _ h

theorem rowAction_inv (tag : Byte) {s : State} {y : Nat} {prev : List Byte} (h : s.inv = true)
    (hs : s.seq = .recon y prev) (hy : y < s.regs.hdrHeight.toNat) : (rowAction tag y prev s).inv = true := by
  unfold rowAction
  split_ifs
  · exact filterRow_inv predNone h hs hy
  · exact filterRow_inv predSub h hs hy
  · exact filterRow_inv predUp h hs hy
  · exact filterRow_inv predAverage h hs hy
  · exact filterRow_inv paethPredictor h hs hy
  · exact illegalRow_inv tag y ((inv_iff s).1 h).1

theorem finishRecon_inv {s : State} (h : s.Running) : (finishRecon s).inv = true :=
  complete_inv { h with } h.errorFree

theorem rowStep_inv {s : State} {y : Nat} {prev : List Byte} (h : s.inv = true) (hs : s.seq = .recon y prev) :
    (rowStep y prev s).inv = true := by
  unfold rowStep
  split
  · next hy => exact rowAction_inv _ h hs hy
  · exact finishRecon_inv (inv_running h (by simp [hs]))

theorem rows_inv (n : Nat) {s : State} (h : s.inv = true) : (rows n s).inv = true := by
  induction n generalizing s with
  | zero => exact h
  | succ n ih =>
    cases hs : s.seq with
    | recon y prev => simpa only [rows, hs] using ih (rowStep_inv h hs)
    | idle => simpa only [rows, hs] using h
    | parse pos zlen => simpa only [rows, hs] using h

theorem reconBody_inv {s : State} (h : s.Running) : (reconBody s).inv = true := by
  unfold reconBody
  split
  · exact raiseError_inv _ _ _ _ h.toSound
  next hrlen =>
  split
  · exact raiseError_inv _ _ _ _ h.toSound
  next hgrid =>
  split
  · exact raiseError_inv _ _ _ _ h.toSound
  next hstream =>
  have hbegin : (beginRows s).inv = true :=
    running_inv { h with }
      ((seqOk_recon_iff rfl).2
        ⟨h.busy, Nat.zero_le _, List.length_replicate, Nat.le_of_not_lt hgrid, Nat.le_of_not_lt hstream,
          Nat.le_of_not_lt hrlen⟩)
  exact rows_inv _ hbegin

/-! ### The commands without turns: what they write has the length their checks allow -/

theorem resizedBytes_length (tie : RoundTie) (src : Buffer) (sw sh dw dh : Nat) :
    (resizedBytes tie src sw sh dw dh).length = 4 * dw * dh := by
  unfold resizedBytes
  split
  · next heq =>
    obtain ⟨rfl, rfl⟩ := heq
    exact Buffer.readBytes_length ..
  · simp [resampledGrid]

theorem packRow_length (grid : Buffer) (w y : Nat) : (packRow grid w y).length = 1 + stride w := by
  simp [packRow, Nat.add_comm]

theorem packStream_length (grid : Buffer) (w h : Nat) : (packStream grid w h).length = streamLength w h := by
  simp [packStream, streamLength, List.length_flatMap, packRow_length]

theorem frame_length (tag : Word) (body : List Byte) : (frame tag body).length = 12 + body.length := by
  simp [frame]
  omega

theorem emittedFile_length (w h : Word) (compressed : List Byte) :
    (emittedFile w h compressed).length = 57 + compressed.length := by
  simp [emittedFile, frame_length, signatureBytes, headerPayload]
  omega

theorem resizeBody_inv {s : State} (h : s.Running) : (resizeBody s).inv = true := by
  unfold resizeBody
  split
  · exact raiseError_inv _ _ _ _ h.toSound
  split
  · exact raiseError_inv _ _ _ _ h.toSound
  split
  · exact raiseError_inv _ _ _ _ h.toSound
  next hcap =>
  exact complete_inv
    { h with gdst := bufferOk_writeBytes_zero h.gdst (resizedBytes_length ..) (Nat.le_of_not_lt hcap) } h.errorFree

theorem packBody_inv {s : State} (h : s.Running) : (packBody s).inv = true := by
  unfold packBody
  split
  · exact raiseError_inv _ _ _ _ h.toSound
  split
  · exact raiseError_inv _ _ _ _ h.toSound
  next hcap =>
  exact complete_inv
    { h with rbuf := bufferOk_writeBytes_zero h.rbuf (packStream_length ..) (Nat.le_of_not_lt hcap) } h.errorFree

/-- EMIT's completion with its outputs as variables: what is written plays no part, only that it fits. -/
theorem emitOutputs_inv {s : State} {file : Buffer} (n : Word) (h : s.Running)
    (hfile : bufferOk s.cfg.fbufCap.toNat file = true) :
    (complete { s with fbuf := file, regs := { s.regs with flen := n } }).inv = true :=
  complete_inv { h with fbuf := hfile } h.errorFree

theorem emitBody_inv {s : State} (h : s.Running) : (emitBody s).inv = true := by
  unfold emitBody
  split
  · exact raiseError_inv _ _ _ _ h.toSound
  split
  · exact raiseError_inv _ _ _ _ h.toSound
  next hcap =>
  have hlen :
      (emittedFile s.regs.dw s.regs.dh (s.zbuf.readBytes 0 s.regs.zlen.toNat)).length = 57 + s.regs.zlen.toNat := by
    rw [emittedFile_length, Buffer.readBytes_length]
  exact emitOutputs_inv _ h (bufferOk_writeBytes_zero h.fbuf hlen (Nat.le_of_not_lt hcap))

theorem crcBody_inv {s : State} (h : s.Running) : (crcBody s).inv = true := by
  unfold crcBody
  split
  · exact raiseError_inv _ _ _ _ h.toSound
  split
  · exact raiseError_inv _ _ _ _ h.toSound
  · exact complete_inv { h with } h.errorFree

/-! ### The command words -/

theorem operation_inv {body : State → State} {s t : State} (hbody : ∀ {u : State}, u.Running → (body u).inv = true)
    (hi : s.inv = true) (h : operation body s = .next t) : t.inv = true := by
  obtain ⟨-, ⟨-, rfl⟩ | ⟨herr, rfl⟩⟩ := operation_next h
  · exact hi
  · exact hbody (acceptCommand_running hi herr)

theorem execClrerr_inv {s t : State} (hi : s.inv = true) (h : execClrerr s = .next t) : t.inv = true := by
  obtain ⟨hbusy, rfl⟩ := control_next h
  obtain ⟨hsound, -, hseq⟩ := (inv_iff s).1 hi
  have hflags : (clearError s).flagsOk = true := by simp [State.flagsOk, hbusy]
  exact (inv_iff _).2 ⟨{ hsound with }, hflags, hseq⟩

theorem execRst_inv {s t : State} (hi : s.inv = true) (h : execRst s = .next t) : t.inv = true := by
  obtain ⟨-, rfl⟩ := control_next h
  obtain ⟨hsound, -, -⟩ := (inv_iff s).1 hi
  exact (inv_iff _).2 ⟨{ hsound with byteRegs := rfl, header := rfl }, rfl, rfl⟩

theorem execCmdIllegal_inv {w : Word} {s t : State} (hi : s.inv = true) (h : execCmdIllegal w s = .next t) :
    t.inv = true := by
  obtain ⟨-, ⟨-, rfl⟩ | ⟨-, rfl⟩⟩ := dispatch_next h
  · exact hi
  · exact raiseError_inv _ _ _ _ ((inv_iff s).1 hi).1

theorem exec_decodeCmd_inv {w : Word} {s t : State} (hi : s.inv = true) (h : exec (decode (.cmd w)) s = .next t) :
    t.inv = true := by
  simp only [decode, decodeCmd] at h
  split_ifs at h
  · exact operation_inv parseBody_inv hi h
  · exact operation_inv reconBody_inv hi h
  · exact operation_inv resizeBody_inv hi h
  · exact operation_inv packBody_inv hi h
  · exact operation_inv emitBody_inv hi h
  · exact operation_inv crcBody_inv hi h
  · exact execClrerr_inv hi h
  · exact execRst_inv hi h
  · exact execCmdIllegal_inv hi h

/-! ### The host's accesses -/

theorem setBuf_inv {s : State} {id : BufId} {b : Buffer} (hi : s.inv = true)
    (hb : bufferOk (capacityOf s.cfg id) b = true) : (s.setBuf id b).inv = true := by
  obtain ⟨hsound, hflags, hseq⟩ := (inv_iff s).1 hi
  cases id with
  | fbuf => exact (inv_iff _).2 ⟨{ hsound with fbuf := hb }, hflags, hseq⟩
  | zbuf => exact (inv_iff _).2 ⟨{ hsound with zbuf := hb }, hflags, hseq⟩
  | rbuf => exact (inv_iff _).2 ⟨{ hsound with rbuf := hb }, hflags, hseq⟩
  | gsrc => exact (inv_iff _).2 ⟨{ hsound with gsrc := hb }, hflags, hseq⟩
  | gdst => exact (inv_iff _).2 ⟨{ hsound with gdst := hb }, hflags, hseq⟩

theorem bufferOk_buf {s : State} (h : s.Sound) (id : BufId) : bufferOk (capacityOf s.cfg id) (s.buf id) = true := by
  cases id with
  | fbuf => exact h.fbuf
  | zbuf => exact h.zbuf
  | rbuf => exact h.rbuf
  | gsrc => exact h.gsrc
  | gdst => exact h.gdst

/-- The host writes none of the registers that the invariant of an idle block speaks of (10_state.md R21). -/
theorem writeSlot_inv {s : State} (slot : Nat) (v : Word) (hi : s.inv = true) (hs : s.seq = .idle) :
    (writeSlot s slot v).inv = true := by
  cases hr : Reg.ofSlot slot with
  | none => simpa [writeSlot, hr] using hi
  | some r =>
    rw [writeSlot_of_ofSlot s v hr]
    obtain ⟨hsound, hflags, hseq⟩ := (inv_iff s).1 hi
    have hseq' : State.seqOk { s with regs := writeReg s.regs v r } = true := by simpa [State.seqOk, hs] using hseq
    cases r <;> exact (inv_iff _).2 ⟨{ hsound with }, hflags, hseq'⟩

theorem hardwareReset_inv (s : State) : (hardwareReset s).inv = true := inv_of_registers_zero rfl rfl rfl rfl

theorem hostAccess_inv {a : Input} {s t : State} (hi : s.inv = true) (hs : s.seq = .idle)
    (h : hostAccess a s = .next t) : t.inv = true := by
  cases a with
  | writeReg slot v =>
    simp only [hostAccess] at h
    split at h <;> cases h
    exact writeSlot_inv slot v hi hs
  | readReg slot =>
    simp only [hostAccess] at h
    split at h <;> cases h
    exact hi
  | writeByte id off v =>
    simp only [hostAccess] at h
    split_ifs at h with _ hoff
    cases h
    exact setBuf_inv hi (bufferOk_write (bufferOk_buf ((inv_iff s).1 hi).1 id) hoff)
  | readByte id off =>
    simp only [hostAccess] at h
    split_ifs at h
    cases h
    exact hi
  | reset =>
    cases h
    exact hardwareReset_inv s

/-! ### The step -/

/-- A step on an idle block, with no reset pending: nothing, a command word, or a host access. -/
theorem step_idle_next {s t : State} (hs : s.seq = .idle) (hr : resetPending s = false) (h : step s = .next t) :
    t = s ∨ (∃ w rest, exec (decode (.cmd w)) { s with inputs := rest } = .next t) ∨
      ∃ a rest, hostAccess a { s with inputs := rest } = .next t := by
  cases hin : s.inputs with
  | nil =>
    rw [step_idle hs hin] at h
    cases h
    exact .inl rfl
  | cons a rest =>
    by_cases hcmd : ∃ w, a = .writeReg 0 w
    · obtain ⟨w, rfl⟩ := hcmd
      exact .inr (.inl ⟨w, rest, step_command hs hin ▸ h⟩)
    · have hreset : a ≠ .reset := by
        rintro rfl
        simp [resetPending, hin] at hr
      exact .inr (.inr ⟨a, rest, step_access hs hin hreset (not_exists.1 hcmd) ▸ h⟩)

/-- What a step that answers next does: hardware reset, a turn of PARSE or of RECON, or what an idle block does. -/
theorem step_next {s t : State} (h : step s = .next t) :
    (∃ rest, t = hardwareReset { s with inputs := rest }) ∨
      (∃ pos zlen, s.seq = .parse pos zlen ∧ t = walkStep pos zlen s) ∨
      (∃ y prev, s.seq = .recon y prev ∧ t = rowStep y prev s) ∨
      s.seq = .idle ∧
        (t = s ∨ (∃ w rest, exec (decode (.cmd w)) { s with inputs := rest } = .next t) ∨
          ∃ a rest, hostAccess a { s with inputs := rest } = .next t) := by
  cases hr : resetPending s with
  | true =>
    obtain ⟨rest, hin⟩ : ∃ rest, s.inputs = .reset :: rest := by
      simpa [resetPending, List.head?_eq_some_iff] using hr
    rw [step_reset hin] at h
    cases h
    exact .inl ⟨rest, rfl⟩
  | false =>
    by_cases hidle : s.seq = .idle
    · exact .inr (.inr (.inr ⟨hidle, step_idle_next hidle hr h⟩))
    · cases hs : s.seq with
      | parse pos zlen =>
        rw [step_walking hs hr] at h
        cases h
        exact .inr (.inl ⟨pos, zlen, rfl, rfl⟩)
      | recon y prev =>
        rw [step_reconstructing hs hr] at h
        cases h
        exact .inr (.inr (.inl ⟨y, prev, rfl, rfl⟩))
      | idle => exact absurd hs hidle

/-- Settles O57: hardware reset gives the invariant, and each of the other things a step does keeps it. -/
theorem stepKeepsTheInvariant : Obligations.StepKeepsTheInvariant := by
  intro s t hi h
  have hi' (rest : List Input) : State.inv { s with inputs := rest } = true := hi
  rcases step_next h with
    ⟨rest, rfl⟩ | ⟨pos, zlen, hs, rfl⟩ | ⟨y, prev, hs, rfl⟩ | ⟨hs, rfl | ⟨w, rest, hexec⟩ | ⟨a, rest, haccess⟩⟩
  · exact hardwareReset_inv _
  · exact walkStep_inv hi hs
  · exact rowStep_inv hi hs
  · exact hi
  · exact exec_decodeCmd_inv (hi' rest) hexec
  · exact hostAccess_inv (hi' rest) hs haccess

end Sys2Proof.Machine
end

section
/-! PROOFS. 30_encoding.md R90 to R92, R97, R101, R102, R112: the decoder against the lists of codes, and a placed code.
The three spaces are treated alike: a code that its space lists has a row of its own, every other code takes the default
row. -/

namespace Sys2Proof

/-! ### Listed codes and default rows -/

/-- The legal filter tags of 30_encoding.md R101. -/
def legalFilterTags : List Byte := [0x00, 0x01, 0x02, 0x03, 0x04]

/-- The code has a row of its own in its space's table (30_encoding.md R90, R97, R101). -/
def Code.Listed : Code → Prop
  | .cmd w => w ∈ definedCommandWords
  | .tag w => w ∈ definedChunkTags
  | .filter b => b ∈ legalFilterTags

/-- The default row of a code's space, carrying the code (30_encoding.md R92, R97, R102). -/
def Code.defaultRow : Code → Instr
  | .cmd w => .cmdIllegal w
  | .tag w => .chunkOther w
  | .filter b => .filtIllegal b

theorem mem_legalFilterTags_iff (b : Byte) : b ∈ legalFilterTags ↔ b.toNat ≤ 4 := by
  simp only [legalFilterTags, List.mem_cons, List.not_mem_nil, or_false]
  bv_omega

theorem encode_defaultRow (c : Code) : encode c.defaultRow = c := by cases c <;> rfl

/-- A default row is well formed just where it takes no listed code from a neighbour. -/
theorem defaultRow_wellFormed_iff (c : Code) : c.defaultRow.wellFormed = true ↔ ¬ c.Listed := by
  cases c with
  | cmd w => simp [Code.defaultRow, Instr.wellFormed, Code.Listed]
  | tag w => simp [Code.defaultRow, Instr.wellFormed, Code.Listed]
  | filter b => simp [Code.defaultRow, Instr.wellFormed, Code.Listed, mem_legalFilterTags_iff]

/-- A listed code decodes to a well-formed instruction whose code it is. -/
theorem decode_listed {c : Code} (h : c.Listed) : encode (decode c) = c ∧ (decode c).wellFormed = true := by
  cases c with
  | cmd w =>
    simp only [Code.Listed, definedCommandWords, List.mem_cons, List.not_mem_nil, or_false] at h
    rcases h with rfl | rfl | rfl | rfl | rfl | rfl | rfl | rfl <;> exact ⟨rfl, rfl⟩
  | tag w =>
    simp only [Code.Listed, definedChunkTags, List.mem_cons, List.not_mem_nil, or_false] at h
    rcases h with rfl | rfl | rfl <;> exact ⟨rfl, rfl⟩
  | filter b =>
    simp only [Code.Listed, legalFilterTags, List.mem_cons, List.not_mem_nil, or_false] at h
    rcases h with rfl | rfl | rfl | rfl | rfl <;> exact ⟨rfl, rfl⟩

/-- A code that its space does not list fails every comparison of the decoder. -/
theorem decode_unlisted {c : Code} (h : ¬ c.Listed) : decode c = c.defaultRow := by
  cases c with
  | cmd w =>
    simp only [Code.Listed, definedCommandWords, List.mem_cons, List.not_mem_nil, or_false, not_or] at h
    simp only [decode, decodeCmd, Code.defaultRow, h, if_false]
  | tag w =>
    simp only [Code.Listed, definedChunkTags, List.mem_cons, List.not_mem_nil, or_false, not_or] at h
    simp only [decode, decodeTag, tagIHDR, tagIDAT, tagIEND, Code.defaultRow, h, if_false]
  | filter b =>
    simp only [Code.Listed, legalFilterTags, List.mem_cons, List.not_mem_nil, or_false, not_or] at h
    simp only [decode, decodeFilter, Code.defaultRow, h, if_false]

/-- A code takes the default row of its space just where the space does not list it (30_encoding.md R92, R97, R102). -/
theorem decode_eq_defaultRow_iff (c : Code) : decode c = c.defaultRow ↔ ¬ c.Listed := by
  refine ⟨fun hd hl => ?_, decode_unlisted⟩
  have hwf : c.defaultRow.wellFormed = true := hd ▸ (decode_listed hl).2
  exact (defaultRow_wellFormed_iff c).1 hwf hl

/-! ### Decoding and encoding are inverse -/

/-- Settles O2: a default row is well formed only over an unlisted code, which decodes to it; the other rows have one code
each. -/
theorem encodedInstructionsDecodeBack : Obligations.EncodedInstructionsDecodeBack := by
  have hdefault (c : Code) (h : c.defaultRow.wellFormed = true) : decode c = c.defaultRow :=
    decode_unlisted ((defaultRow_wellFormed_iff c).1 h)
  intro i h
  cases i with
  | cmdIllegal w => exact hdefault (.cmd w) h
  | chunkOther w => exact hdefault (.tag w) h
  | filtIllegal b => exact hdefault (.filter b) h
  | parse | recon | resize | pack | emit | crc | clrerr | rst => rfl
  | ihdr | idat | iend => rfl
  | filtNone | filtSub | filtUp | filtAverage | filtPaeth => rfl

/-- Settles O3: a listed code by its row, any other by the default row. -/
theorem decodedCodesEncodeBack : Obligations.DecodedCodesEncodeBack := by
  intro c
  by_cases h : c.Listed
  · exact decode_listed h
  · rw [decode_unlisted h]
    exact ⟨encode_defaultRow c, (defaultRow_wellFormed_iff c).2 h⟩

/-- Settles O1: each listed code is the code of the row it names, a tag assembled from its bytes by evaluation. -/
theorem listedCodesDecodeToTheirRows : Obligations.ListedCodesDecodeToTheirRows := by
  have h := encodedInstructionsDecodeBack
  exact ⟨h .parse rfl, h .recon rfl, h .resize rfl, h .pack rfl, h .emit rfl, h .crc rfl, h .clrerr rfl, h .rst rfl,
    h .ihdr rfl, h .idat rfl, h .iend rfl, h .filtNone rfl, h .filtSub rfl, h .filtUp rfl, h .filtAverage rfl,
    h .filtPaeth rfl⟩

/-! ### The fields of a command word, and the lists as the spec writes them -/

/-- A word is a byte widened with zeros just where its upper 24 bits are 0 and its lowest byte is that byte. -/
theorem setWidth_eq_iff_fields (c : Byte) (w : Word) :
    c.setWidth 32 = w ↔ w.extractLsb' 8 24 = 0 ∧ c = w.extractLsb' 0 8 := by
  simp only [← BitVec.toNat_inj, BitVec.toNat_setWidth, BitVec.extractLsb'_toNat, Nat.shiftRight_eq_div_pow,
    BitVec.ofNat_eq_ofNat, BitVec.toNat_ofNat, Nat.reducePow]
  omega

/-- A command word is listed just where bits 31:8 are 0 and the opcode is one of the eight (30_encoding.md R90, R91). -/
theorem mem_definedCommandWords_iff (w : Word) :
    w ∈ definedCommandWords ↔
      w.extractLsb' 8 24 = 0 ∧ w.extractLsb' 0 8 ∈ ([0x01, 0x02, 0x03, 0x04, 0x05, 0x06, 0x0E, 0x0F] : List Byte) := by
  have hwords : definedCommandWords =
      ([0x01, 0x02, 0x03, 0x04, 0x05, 0x06, 0x0E, 0x0F] : List Byte).map (BitVec.setWidth 32) := rfl
  rw [hwords, List.mem_map]
  constructor
  · rintro ⟨c, hc, hw⟩
    obtain ⟨hhigh, rfl⟩ := (setWidth_eq_iff_fields c w).1 hw
    exact ⟨hhigh, hc⟩
  · rintro ⟨hhigh, hlow⟩
    exact ⟨_, hlow, (setWidth_eq_iff_fields _ w).2 ⟨hhigh, rfl⟩⟩

/-- Settles O4: the illegal row is CMD32's default row, and the words listed there are told by their fields. -/
theorem commandWordFieldsDecideLegality : Obligations.CommandWordFieldsDecideLegality := by
  intro w
  calc decode (.cmd w) = .cmdIllegal w
    _ ↔ w ∉ definedCommandWords := decode_eq_defaultRow_iff (.cmd w)
    _ ↔ _ := by rw [mem_definedCommandWords_iff, not_and_or]

/-- Settles O5: both are the default row of their space; the legal filter tags are the numbers up to 4. -/
theorem otherTagsTakeTheDefaultRow : Obligations.OtherTagsTakeTheDefaultRow := by
  refine ⟨fun w => decode_eq_defaultRow_iff (.tag w), fun b => ?_⟩
  calc decode (.filter b) = .filtIllegal b
    _ ↔ b ∉ legalFilterTags := decode_eq_defaultRow_iff (.filter b)
    _ ↔ 4 < b.toNat := by rw [mem_legalFilterTags_iff, not_le]

end Sys2Proof

namespace Sys2Proof.Machine

/-! ### A placed code -/

/-- A big-endian field written within a byte string reads back (20_memory.md R68, R72). -/
theorem Buffer.readBE32_writeBytes (b : Buffer) (a : Nat) (front back : List Byte) (v : Word)
    (h : Memory.wf b.cells = true) :
    (b.writeBytes a (front ++ be32 v ++ back)).readBE32 (a + front.length) = v := by
  have hbyte (k : Nat) (hk : k < 4) :
      (b.writeBytes a (front ++ be32 v ++ back)).read (a + front.length + k) = (be32 v).getD k 0 := by
    rw [Buffer.read_writeBytes b a _ _ h, if_pos (by simp; omega), Nat.add_assoc, Nat.add_sub_cancel_left,
      List.append_assoc, List.getD_append_right _ _ _ _ (by omega), Nat.add_sub_cancel_left,
      List.getD_append _ _ _ _ (by simpa using hk)]
  have h0 := hbyte 0 (by omega)
  rw [Nat.add_zero] at h0
  rw [Buffer.readBE32, h0, hbyte 1 (by omega), hbyte 2 (by omega), hbyte 3 (by omega)]
  exact be32Of_be32 v

theorem resetPending_dropWhile {s : State} {l : List Input} (h : s.inputs = l.dropWhile (· == .reset)) :
    resetPending s = false := by
  rw [resetPending_eq_false_iff, h]
  intro hhead
  have hnot := List.head?_dropWhile_not (· == Input.reset) l
  simp [hhead] at hnot

/-- The tag of a chunk placed at the cursor is what the next step runs. -/
theorem step_placeCode_tag (s : State) (w : Word) (h : Memory.wf s.fbuf.cells = true) :
    step (placeCode s (.tag w)) = exec (decode (.tag w)) (placeCode s (.tag w)) := by
  have hlength : chunkLength (placeCode s (.tag w)) 8 = 0 :=
    congrArg BitVec.toNat (Buffer.readBE32_writeBytes s.fbuf 8 [] (be32 w) 0 h)
  have htag : chunkTag (placeCode s (.tag w)) 8 = w :=
    Buffer.readBE32_writeBytes s.fbuf 8 (be32 0) [] w h
  have hend : nextChunk (placeCode s (.tag w)) 8 ≤ (placeCode s (.tag w)).regs.flen.toNat := by
    rw [nextChunk, hlength]
    exact Nat.le_refl 20
  rw [step_tag rfl (resetPending_dropWhile rfl) hend, htag]

/-- The filter tag placed at row 0 is what the next step runs. -/
theorem step_placeCode_filter (s : State) (b : Byte) (h : Memory.wf s.rbuf.cells = true) :
    step (placeCode s (.filter b)) = exec (decode (.filter b)) (placeCode s (.filter b)) := by
  have htag : rowTag (placeCode s (.filter b)) 0 = b := by
    simp [rowTag, rowBase, placeCode, Buffer.read_write s.rbuf 0 _ b h]
  have hrow : 0 < (placeCode s (.filter b)).regs.hdrHeight.toNat := by
    simp only [placeCode]
    split
    · decide
    · rename_i hne
      exact BitVec.toNat_pos_of_ne_zero hne
  rw [step_filter rfl (resetPending_dropWhile rfl) hrow, htag]

/-- The code placed is what the next step runs, a command word's host action taken off the list (log 10). -/
theorem step_placeCode (s : State) (c : Code) (hf : Memory.wf s.fbuf.cells = true) (hr : Memory.wf s.rbuf.cells = true) :
    ∃ rest, step (placeCode s c) = exec (decode c) { placeCode s c with inputs := rest } ∧
      ((placeCode s c).seq = .idle → rest = s.inputs) := by
  cases c with
  | cmd w => exact ⟨s.inputs, step_command rfl rfl, fun _ => rfl⟩
  | tag w => exact ⟨_, step_placeCode_tag s w hf, nofun⟩
  | filter b => exact ⟨_, step_placeCode_filter s b hr, nofun⟩

/-- Settles O7: a table number that the decoder reads is a code, and its placed code is run. -/
theorem placedCodeIsRunByTheNextStep : Obligations.PlacedCodeIsRunByTheNextStep := by
  intro s nbits w i hf hr hi
  obtain ⟨c, hc, rfl⟩ := Option.map_eq_some_iff.1 hi
  have hplace : s.withFetchWord nbits w = placeCode s c := by simp [State.withFetchWord, hc]
  rw [hplace]
  exact step_placeCode s c hf hr

end Sys2Proof.Machine
end

section
/-! PROOFS. 40_commands_control.md R130, R134 to R136 with 60_exceptions.md R289: the two control commands, and what a block
with a recorded error does. -/

namespace Sys2Proof.Machine

/-! ### CLRERR and RST -/

theorem exec_clrerr {s : State} (hb : s.status.busy = false) : exec .clrerr s = .next (clearError s) := by
  simp [exec, execClrerr, control, hb]

/-- Settles O15: the word has a row of its own, and control runs it whatever ERR is. -/
theorem clearErrorForgetsTheError : Obligations.ClearErrorForgetsTheError :=
  ⟨rfl, fun _ hb => exec_clrerr hb⟩

/-- Settles O16: likewise, with the register part of reset. -/
theorem softResetZeroesTheRegisters : Obligations.SoftResetZeroesTheRegisters :=
  ⟨rfl, fun _ hb => exec_rst hb⟩

/-! ### While an error is recorded -/

/-- Every command word but those of CLRERR and RST, the illegal ones among them, goes through `dispatch` (R130, R134). -/
theorem exec_decodeCmd_dispatch {w : Word} (hclr : w ≠ 0x0000000E) (hrst : w ≠ 0x0000000F) :
    ∃ run, exec (decode (.cmd w)) = dispatch run := by
  simp only [decode, decodeCmd, if_neg hclr, if_neg hrst]
  split_ifs
  · exact ⟨fun u => parseBody (acceptCommand u), rfl⟩
  · exact ⟨fun u => reconBody (acceptCommand u), rfl⟩
  · exact ⟨fun u => resizeBody (acceptCommand u), rfl⟩
  · exact ⟨fun u => packBody (acceptCommand u), rfl⟩
  · exact ⟨fun u => emitBody (acceptCommand u), rfl⟩
  · exact ⟨fun u => crcBody (acceptCommand u), rfl⟩
  · exact ⟨raiseError .dispatcher .illegalCmd 0 w.toNat, rfl⟩

theorem exec_decodeCmd_error {s : State} {w : Word} (hb : s.status.busy = false) (he : s.status.err = true)
    (hclr : w ≠ 0x0000000E) (hrst : w ≠ 0x0000000F) : exec (decode (.cmd w)) s = .next s := by
  obtain ⟨run, hrun⟩ := exec_decodeCmd_dispatch hclr hrst
  rw [hrun, dispatch_error run hb he]

/-- An idle block with a recorded error keeps it in every step but those that take the reset, CLRERR or RST (R289): the other
command words change nothing, and no host access reaches STATUS or an error register. -/
theorem step_keeps_error {s t : State} (hs : s.seq = .idle) (hb : s.status.busy = false) (he : s.status.err = true)
    (h : step s = .next t) (hreset : s.inputs.head? ≠ some .reset)
    (hclr : s.inputs.head? ≠ some (.writeReg 0 0x0000000E)) (hrst : s.inputs.head? ≠ some (.writeReg 0 0x0000000F)) :
    t.status = s.status ∧ t.regs.errCode = s.regs.errCode ∧ t.regs.errPos = s.regs.errPos ∧
      t.regs.errInfo = s.regs.errInfo := by
  cases hin : s.inputs with
  | nil =>
    rw [step_idle hs hin] at h
    cases h
    exact ⟨rfl, rfl, rfl, rfl⟩
  | cons a rest =>
    simp only [hin, List.head?_cons, ne_eq, Option.some.injEq] at hreset hclr hrst
    by_cases hcmd : ∃ w, a = .writeReg 0 w
    · obtain ⟨w, rfl⟩ := hcmd
      have hkeep : step s = .next { s with inputs := rest } :=
        (step_command hs hin).trans
          (exec_decodeCmd_error hb he (mt (congrArg (Input.writeReg 0)) hclr) (mt (congrArg (Input.writeReg 0)) hrst))
      rw [hkeep] at h
      cases h
      exact ⟨rfl, rfl, rfl, rfl⟩
    · rw [step_access hs hin hreset (not_exists.1 hcmd)] at h
      exact hostAccess_keeps_error (s := { s with inputs := rest }) hreset h

/-! ### The ways out of the error state -/

theorem step_clrerr {s : State} {rest : List Input} (hs : s.seq = .idle) (hb : s.status.busy = false)
    (h : s.inputs = .writeReg 0 0x0000000E :: rest) : step s = .next (clearError { s with inputs := rest }) :=
  (step_command hs h).trans (exec_clrerr hb)

theorem step_rst {s : State} {rest : List Input} (hs : s.seq = .idle) (hb : s.status.busy = false)
    (h : s.inputs = .writeReg 0 0x0000000F :: rest) : step s = .next (resetRegisters { s with inputs := rest }) :=
  (step_command hs h).trans (exec_rst hb)

theorem resetRegisters_errorFree (s : State) : (resetRegisters s).errorFree := ⟨rfl, rfl, rfl, rfl⟩

theorem hardwareReset_errorFree (s : State) : (hardwareReset s).errorFree := ⟨rfl, rfl, rfl, rfl⟩

/-- Settles O18: under the invariant a recorded error means an idle block, whose step is told by its next input. -/
theorem nothingRunsWhileAnErrorIsRecorded : Obligations.NothingRunsWhileAnErrorIsRecorded := by
  refine ⟨fun s w hb he => exec_decodeCmd_error hb he, ?_, ?_⟩
  · intro s t hi he h hreset hclr hrst
    obtain ⟨hs, hb, -⟩ := inv_error hi he
    obtain ⟨hstatus, hregs⟩ := step_keeps_error hs hb he h hreset hclr hrst
    exact ⟨hstatus ▸ he, hregs⟩
  · intro s rest hi he
    obtain ⟨hs, hb, -⟩ := inv_error hi he
    refine ⟨step_clrerr hs hb, ?_⟩
    rintro (hin | hin)
    · exact ⟨_, step_rst hs hb hin, resetRegisters_errorFree _⟩
    · exact ⟨_, step_reset hin, hardwareReset_errorFree _⟩

end Sys2Proof.Machine
end

section
/-! PROOFS. 41_chunk_reader.md R151 to R162: PARSE's two checks, the four chunk actions, and the end of the walk. -/

namespace Sys2Proof.Machine

/-! ### The checks before the walk -/

theorem exec_parse_ready {s : State} (h : s.ready = true) : exec .parse s = .next (parseBody (acceptCommand s)) :=
  operation_ready parseBody h

theorem signatureOk_iff (s : State) :
    signatureOk s = true ↔ 8 ≤ s.regs.flen.toNat ∧ s.fbuf.readBytes 0 8 = signatureBytes := by
  simp [signatureOk]

theorem signatureOk_read {s : State} (h : signatureOk s = true) {k : Nat} (hk : k < 8) :
    s.fbuf.read k = signatureBytes.getD k 0 := by
  obtain ⟨-, hbytes⟩ := (signatureOk_iff s).1 h
  rw [← hbytes, Buffer.readBytes_getD _ _ _ _ hk, Nat.zero_add]

theorem parseBody_tooLong {s : State} (h : s.cfg.fbufCap.toNat < s.regs.flen.toNat) :
    parseBody s = raiseError .parse .param 0 0 s :=
  if_pos h

theorem parseBody_badSignature {s : State} (hlen : s.regs.flen.toNat ≤ s.cfg.fbufCap.toNat)
    (h : ¬ signatureOk s = true) : parseBody s = raiseError .parse .signature 0 0 (clearSeen s) := by
  rw [parseBody, if_neg (Nat.not_lt.2 hlen), if_neg h]

theorem parseBody_walk {s : State} (hlen : s.regs.flen.toNat ≤ s.cfg.fbufCap.toNat) (h : signatureOk s = true) :
    parseBody s = walk (s.regs.flen.toNat + 1) (beginWalk s) := by
  rw [parseBody, if_neg (Nat.not_lt.2 hlen), if_pos h]

/-- Settles O22: the capacity is tested first, and a byte that differs from the signature fails the signature test. -/
theorem parseChecksLengthAndSignature : Obligations.ParseChecksLengthAndSignature := by
  intro s hready
  rw [exec_parse_ready hready]
  constructor
  · intro hlong
    exact ⟨_, rfl, parseBody_tooLong (s := acceptCommand s) hlong ▸ raiseError_records .parse .param 0 0 9 _ rfl⟩
  · intro hlen hbad
    have hsig : ¬ signatureOk (acceptCommand s) = true := by
      intro hok
      rcases hbad with hshort | ⟨k, hk, hne⟩
      · exact absurd (signatureOk_flen hok) (Nat.not_le.2 hshort)
      · exact hne (signatureOk_read hok hk)
    exact ⟨_, rfl,
      parseBody_badSignature (s := acceptCommand s) hlen hsig ▸ raiseError_records .parse .signature 0 0 1 _ rfl⟩

/-! ### A chunk action where PARSE is walking -/

theorem whileWalking_parse {act : Nat → Nat → State → State} {s : State} {pos zlen : Nat} (h : s.seq = .parse pos zlen) :
    whileWalking act s = .next (act pos zlen s) := by
  simp [whileWalking, h]

theorem exec_ihdr {s : State} {pos zlen : Nat} (h : s.seq = .parse pos zlen) :
    exec .ihdr s = .next (ihdrChunk pos zlen s) :=
  whileWalking_parse h

theorem exec_idat {s : State} {pos zlen : Nat} (h : s.seq = .parse pos zlen) :
    exec .idat s = .next (idatChunk pos zlen s) :=
  whileWalking_parse h

theorem exec_iend {s : State} {pos zlen : Nat} (h : s.seq = .parse pos zlen) :
    exec .iend s = .next (iendChunk pos zlen s) :=
  whileWalking_parse h

/-- Settles O26: the three tags are the listed ones, and the skip is the cursor advance alone. -/
theorem unknownChunkIsSkipped : Obligations.UnknownChunkIsSkipped :=
  ⟨fun _ h => decode_unlisted h, fun _ _ _ _ h => whileWalking_parse h⟩

/-! ### The header chunk (R157, R158) -/

/-- A sum of five fail bits has each condition as its own bit: none carries into another. -/
theorem failBits_testBit : ∀ a b c d e : Bool,
    let m := failBit a 1 + failBit b 2 + failBit c 4 + failBit d 8 + failBit e 16
    m < 32 ∧ m.testBit 0 = a ∧ m.testBit 1 = b ∧ m.testBit 2 = c ∧ m.testBit 3 = d ∧ m.testBit 4 = e := by
  decide

theorem headerCheck_testBit (s : State) (pos : Nat) :
    headerCheck s pos < 32 ∧ ((headerCheck s pos).testBit 0 = true ↔ payloadByte s pos 8 ≠ 8) ∧
      ((headerCheck s pos).testBit 1 = true ↔ payloadByte s pos 9 ≠ 6) ∧
      ((headerCheck s pos).testBit 2 = true ↔ payloadByte s pos 10 ≠ 0) ∧
      ((headerCheck s pos).testBit 3 = true ↔ payloadByte s pos 11 ≠ 0) ∧
      ((headerCheck s pos).testBit 4 = true ↔ payloadByte s pos 12 ≠ 0) := by
  obtain ⟨hlt, h0, h1, h2, h3, h4⟩ := failBits_testBit (payloadByte s pos 8 != 8) (payloadByte s pos 9 != 6)
    (payloadByte s pos 10 != 0) (payloadByte s pos 11 != 0) (payloadByte s pos 12 != 0)
  simp only [headerCheck, headerMask, h0, h1, h2, h3, h4, bne_iff_ne, hlt, ne_eq, and_self]

/-- The five fields have the values PARSE accepts (R158). -/
def headerFieldsOk (s : State) (pos : Nat) : Prop :=
  payloadByte s pos 8 = 8 ∧ payloadByte s pos 9 = 6 ∧ payloadByte s pos 10 = 0 ∧ payloadByte s pos 11 = 0 ∧
    payloadByte s pos 12 = 0

theorem headerCheck_eq_zero_iff (s : State) (pos : Nat) : headerCheck s pos = 0 ↔ headerFieldsOk s pos := by
  simp [headerCheck, headerMask, headerFieldsOk, failBit_eq_zero_iff, and_assoc]

theorem ihdrChunk_badLength {s : State} {pos zlen : Nat} (h : chunkLength s pos ≠ 13) :
    ihdrChunk pos zlen s = raiseError .parse .headerLength pos (chunkLength s pos) s :=
  if_pos h

theorem ihdrChunk_unsupported {s : State} {pos zlen : Nat} (hlen : chunkLength s pos = 13) (h : ¬ headerFieldsOk s pos) :
    ihdrChunk pos zlen s = raiseError .parse .headerUnsupported pos (headerCheck s pos) s := by
  rw [ihdrChunk, if_neg (not_not.2 hlen), if_pos (mt (headerCheck_eq_zero_iff s pos).1 h), raiseError_parse_loadHeader]

/-- The registers after a header chunk was accepted: its width and height, and the one value of each other field. -/
def Regs.withHeader (r : Regs) (width height : Word) : Regs :=
  { r with
    hdrWidth := width, hdrHeight := height, hdrBitDepth := 8, hdrColor := 6, hdrComp := 0, hdrFilter := 0,
    hdrInterlace := 0 }

theorem loadHeader_of_fieldsOk {s : State} {pos : Nat} (h : headerFieldsOk s pos) :
    loadHeader pos s = { s with regs := s.regs.withHeader (payloadBE32 s pos 0) (payloadBE32 s pos 4) } := by
  obtain ⟨hdepth, hcolor, hcomp, hfilter, hinterlace⟩ := h
  simp [loadHeader, Regs.withHeader, hdepth, hcolor, hcomp, hfilter, hinterlace]

theorem ihdrChunk_accepted {s : State} {pos zlen : Nat} (hlen : chunkLength s pos = 13) (h : headerFieldsOk s pos) :
    ihdrChunk pos zlen s =
      { s with
        regs := s.regs.withHeader (payloadBE32 s pos 0) (payloadBE32 s pos 4)
        status := { s.status with hdrSeen := true }
        seq := .parse (pos + 25) zlen } := by
  rw [ihdrChunk, if_neg (not_not.2 hlen), if_neg (not_not.2 ((headerCheck_eq_zero_iff s pos).2 h)),
    loadHeader_of_fieldsOk h, nextChunk, hlen]
  rfl

/-- Settles O23: one lemma for each branch of the header chunk's action, and the mask bit by bit. -/
theorem headerChunkLoadsTheHeader : Obligations.HeaderChunkLoadsTheHeader := by
  refine ⟨rfl, fun s pos zlen hs => ?_⟩
  rw [exec_ihdr hs]
  refine ⟨fun hL => ?_, fun hL hbad => ?_, fun hL h8 h9 h10 h11 h12 => ?_⟩
  · exact ⟨_, rfl, ihdrChunk_badLength (s := s) hL ▸ raiseError_records .parse .headerLength pos _ 7 s rfl⟩
  · exact ⟨_, headerCheck s pos, rfl,
      ihdrChunk_unsupported hL hbad ▸ raiseError_records .parse .headerUnsupported pos _ 3 s rfl,
      headerCheck_testBit s pos⟩
  · exact congrArg Host.Outcome.next (ihdrChunk_accepted hL ⟨h8, h9, h10, h11, h12⟩)

/-! ### A data chunk (R159) -/

theorem idatChunk_full {s : State} {pos zlen : Nat} (h : s.cfg.zbufCap.toNat < zlen + chunkLength s pos) :
    idatChunk pos zlen s = raiseError .parse .capacity pos 0 s :=
  if_pos h

theorem idatChunk_fits {s : State} {pos zlen : Nat} (h : zlen + chunkLength s pos ≤ s.cfg.zbufCap.toNat) :
    idatChunk pos zlen s =
      { s with
        zbuf := s.zbuf.writeBytes zlen (payload s pos)
        seq := .parse (nextChunk s pos) (zlen + chunkLength s pos) } :=
  if_neg (Nat.not_lt.2 h)

@[simp] theorem payload_length (s : State) (pos : Nat) : (payload s pos).length = chunkLength s pos :=
  Buffer.readBytes_length ..

theorem payload_getD (s : State) (pos : Nat) {k : Nat} (h : k < chunkLength s pos) :
    (payload s pos).getD k 0 = payloadByte s pos k :=
  Buffer.readBytes_getD _ _ _ _ h

/-- Settles O24: the buffer is the old one with the payload written at the total so far. -/
theorem dataChunkIsAppended : Obligations.DataChunkIsAppended := by
  refine ⟨rfl, fun s pos zlen hs hwf => ?_⟩
  rw [exec_idat hs]
  refine ⟨fun hfull => ?_, fun hfits => ⟨s.zbuf.writeBytes zlen (payload s pos), ?_, fun k hk => ?_, fun a ha => ?_⟩⟩
  · exact ⟨_, rfl, idatChunk_full (s := s) hfull ▸ raiseError_records .parse .capacity pos 0 8 s rfl⟩
  · exact congrArg Host.Outcome.next (idatChunk_fits hfits)
  · have hk : k < chunkLength s pos := hk
    rw [Buffer.read_writeBytes _ _ _ _ hwf, payload_length, if_pos (by omega), Nat.add_sub_cancel_left,
      payload_getD s pos hk]
    rfl
  · have ha : a < zlen ∨ zlen + chunkLength s pos ≤ a := ha
    rw [Buffer.read_writeBytes _ _ _ _ hwf, payload_length, if_neg (by omega)]

/-! ### The end of the walk (R153, R156, R160, R162) -/

theorem finishWalk_seen {s : State} (pos zlen : Nat) (h : s.status.hdrSeen = true) :
    finishWalk pos zlen s = complete { s with regs := { s.regs with zlen := BitVec.ofNat 32 zlen } } :=
  if_pos h

theorem finishWalk_unseen_records {s : State} (pos zlen : Nat) (h : s.status.hdrSeen = false) :
    records (finishWalk pos zlen s) 2 pos 0 := by
  rw [finishWalk, if_neg (by simp [h])]
  exact raiseError_records .parse .noHeader pos 0 2 s rfl

/-- Settles O25: the terminal chunk's action is the end of the walk, past the chunk and with END_SEEN set. -/
theorem terminalChunkEndsTheWalk : Obligations.TerminalChunkEndsTheWalk := by
  refine ⟨rfl, fun s pos zlen hs => ?_⟩
  rw [exec_iend hs]
  constructor
  · intro hseen
    exact congrArg Host.Outcome.next (finishWalk_seen (s := setEndSeen s) (nextChunk s pos) zlen hseen)
  · intro hunseen
    exact ⟨_, rfl, finishWalk_unseen_records (s := setEndSeen s) (nextChunk s pos) zlen hunseen⟩

theorem walkStep_truncated {s : State} {pos : Nat} (zlen : Nat) (hne : pos ≠ s.regs.flen.toNat)
    (h : s.regs.flen.toNat < nextChunk s pos) : walkStep pos zlen s = raiseError .parse .truncated pos 0 s := by
  rw [walkStep, fetchChunk_truncated s pos hne h]

theorem walkStep_atEnd {s : State} {pos : Nat} (zlen : Nat) (h : pos = s.regs.flen.toNat) :
    walkStep pos zlen s = finishWalk pos zlen s := by
  rw [walkStep, fetchChunk_atEnd s pos h]

theorem walkStep_found {s : State} {pos : Nat} (zlen : Nat) (h : nextChunk s pos ≤ s.regs.flen.toNat) :
    walkStep pos zlen s = chunkAction (chunkTag s pos) pos zlen s := by
  rw [walkStep, fetchChunk_found s pos h]

/-- Settles O27: the step is one turn of the walk, whose fetch finds no chunk. -/
theorem walkEndsWhereNoChunkFollows : Obligations.WalkEndsWhereNoChunkFollows := by
  intro s pos zlen hs hr
  rw [step_walking hs ((resetPending_eq_false_iff s).2 hr)]
  refine ⟨fun hne hpast => ?_, fun hend hunseen => ?_, fun hend hseen => ?_⟩
  · exact ⟨_, rfl, walkStep_truncated zlen hne hpast ▸ raiseError_records .parse .truncated pos 0 6 s rfl⟩
  · exact ⟨_, rfl, walkStep_atEnd zlen hend ▸ finishWalk_unseen_records pos zlen hunseen⟩
  · rw [walkStep_atEnd zlen hend, finishWalk_seen pos zlen hseen]
    rfl

end Sys2Proof.Machine
end

section
/-! PROOFS. 41_chunk_reader.md R153: PARSE reads no byte of FBUF at or beyond FLEN. Every turn of the walk commutes with
replacing FBUF by a buffer that reads the same below FLEN. -/

namespace Sys2Proof.Machine

/-- `b` reads as FBUF at every offset below FLEN. -/
def State.agreesBelowFlen (s : State) (b : Buffer) : Prop :=
  ∀ a, a < s.regs.flen.toNat → b.read a = s.fbuf.read a

/-! ### What is read of a chunk -/

theorem readBE32_of_agrees {s : State} {b : Buffer} (h : s.agreesBelowFlen b) {a : Nat}
    (ha : a + 4 ≤ s.regs.flen.toNat) : b.readBE32 a = s.fbuf.readBE32 a := by
  rw [Buffer.readBE32, Buffer.readBE32, h a (by omega), h (a + 1) (by omega), h (a + 2) (by omega), h (a + 3) (by omega)]

theorem chunkLength_setFbuf {s : State} {b : Buffer} (h : s.agreesBelowFlen b) {pos : Nat}
    (hpos : pos + 8 ≤ s.regs.flen.toNat) : chunkLength (s.setBuf .fbuf b) pos = chunkLength s pos :=
  congrArg BitVec.toNat (readBE32_of_agrees h (by omega))

theorem nextChunk_setFbuf {s : State} {b : Buffer} (h : s.agreesBelowFlen b) {pos : Nat}
    (hpos : pos + 8 ≤ s.regs.flen.toNat) : nextChunk (s.setBuf .fbuf b) pos = nextChunk s pos := by
  rw [nextChunk, nextChunk, chunkLength_setFbuf h hpos]

theorem fetchChunk_setFbuf {s : State} {b : Buffer} (h : s.agreesBelowFlen b) (pos : Nat) :
    fetchChunk (s.setBuf .fbuf b) pos = fetchChunk s pos := by
  simp only [fetchChunk, setBuf_regs]
  by_cases hshort : s.regs.flen.toNat < pos + 8
  · rw [if_pos hshort, if_pos hshort]
  · have htag : chunkTag (s.setBuf .fbuf b) pos = chunkTag s pos := readBE32_of_agrees h (by omega)
    rw [nextChunk_setFbuf h (by omega), htag]

/-! ### A whole chunk below FLEN -/

section WholeChunk

variable {s : State} {b : Buffer} {pos : Nat}
variable (h : s.agreesBelowFlen b) (hnext : nextChunk s pos ≤ s.regs.flen.toNat)

include h hnext

theorem wholeChunk_nextChunk_setFbuf : nextChunk (s.setBuf .fbuf b) pos = nextChunk s pos :=
  nextChunk_setFbuf h (by have := nextChunk_ge s pos; omega)

theorem wholeChunk_chunkLength_setFbuf : chunkLength (s.setBuf .fbuf b) pos = chunkLength s pos :=
  chunkLength_setFbuf h (by have := nextChunk_ge s pos; omega)

theorem payloadByte_setFbuf {k : Nat} (hk : k < chunkLength s pos) :
    payloadByte (s.setBuf .fbuf b) pos k = payloadByte s pos k :=
  h _ (by rw [nextChunk] at hnext; omega)

theorem payloadBE32_setFbuf {k : Nat} (hk : k + 4 ≤ chunkLength s pos) :
    payloadBE32 (s.setBuf .fbuf b) pos k = payloadBE32 s pos k :=
  readBE32_of_agrees h (by rw [nextChunk] at hnext; omega)

theorem payload_setFbuf : payload (s.setBuf .fbuf b) pos = payload s pos := by
  rw [payload, payload, wholeChunk_chunkLength_setFbuf h hnext]
  exact Buffer.readBytes_congr _ _ _ _ fun k _ hk => h k (by rw [nextChunk] at hnext; omega)

theorem headerCheck_setFbuf (hlen : chunkLength s pos = 13) :
    headerCheck (s.setBuf .fbuf b) pos = headerCheck s pos := by
  have hbyte (k : Nat) (hk : k < 13) : payloadByte (s.setBuf .fbuf b) pos k = payloadByte s pos k :=
    payloadByte_setFbuf h hnext (by omega)
  simp only [headerCheck, hbyte, Nat.reduceLT]

theorem loadHeader_setFbuf (hlen : chunkLength s pos = 13) :
    loadHeader pos (s.setBuf .fbuf b) = (loadHeader pos s).setBuf .fbuf b := by
  have hbyte (k : Nat) (hk : k < 13) : payloadByte (s.setBuf .fbuf b) pos k = payloadByte s pos k :=
    payloadByte_setFbuf h hnext (by omega)
  have hword (k : Nat) (hk : k + 4 ≤ 13) : payloadBE32 (s.setBuf .fbuf b) pos k = payloadBE32 s pos k :=
    payloadBE32_setFbuf h hnext (by omega)
  simp only [loadHeader, hbyte, hword, Nat.reduceLT, Nat.reduceAdd, Nat.reduceLeDiff]
  rfl

end WholeChunk

/-! ### The turns of the walk -/

theorem raiseError_parse_setFbuf (e : Cause) (pos info : Nat) (s : State) (b : Buffer) :
    raiseError .parse e pos info (s.setBuf .fbuf b) = (raiseError .parse e pos info s).setBuf .fbuf b := rfl

theorem finishWalk_setFbuf (pos zlen : Nat) (s : State) (b : Buffer) :
    finishWalk pos zlen (s.setBuf .fbuf b) = (finishWalk pos zlen s).setBuf .fbuf b := by
  simp only [finishWalk, setBuf_status]
  split <;> rfl

section WholeChunk

variable {s : State} {b : Buffer} {pos : Nat}
variable (h : s.agreesBelowFlen b) (hnext : nextChunk s pos ≤ s.regs.flen.toNat)

include h hnext

theorem ihdrChunk_setFbuf (zlen : Nat) :
    ihdrChunk pos zlen (s.setBuf .fbuf b) = (ihdrChunk pos zlen s).setBuf .fbuf b := by
  simp only [ihdrChunk, wholeChunk_chunkLength_setFbuf h hnext, wholeChunk_nextChunk_setFbuf h hnext]
  by_cases hlen : chunkLength s pos = 13
  · rw [headerCheck_setFbuf h hnext hlen, loadHeader_setFbuf h hnext hlen]
    split_ifs <;> rfl
  · rw [if_pos hlen, if_pos hlen, raiseError_parse_setFbuf]

theorem idatChunk_setFbuf (zlen : Nat) :
    idatChunk pos zlen (s.setBuf .fbuf b) = (idatChunk pos zlen s).setBuf .fbuf b := by
  simp only [idatChunk, wholeChunk_chunkLength_setFbuf h hnext, wholeChunk_nextChunk_setFbuf h hnext,
    payload_setFbuf h hnext, setBuf_cfg]
  split <;> rfl

theorem iendChunk_setFbuf (zlen : Nat) :
    iendChunk pos zlen (s.setBuf .fbuf b) = (iendChunk pos zlen s).setBuf .fbuf b := by
  rw [iendChunk, iendChunk, wholeChunk_nextChunk_setFbuf h hnext, ← finishWalk_setFbuf]
  rfl

theorem skipChunk_setFbuf (zlen : Nat) :
    skipChunk pos zlen (s.setBuf .fbuf b) = (skipChunk pos zlen s).setBuf .fbuf b := by
  rw [skipChunk, wholeChunk_nextChunk_setFbuf h hnext]
  rfl

theorem chunkAction_setFbuf (tag : Word) (zlen : Nat) :
    chunkAction tag pos zlen (s.setBuf .fbuf b) = (chunkAction tag pos zlen s).setBuf .fbuf b := by
  unfold chunkAction
  split_ifs
  · exact ihdrChunk_setFbuf h hnext zlen
  · exact idatChunk_setFbuf h hnext zlen
  · exact iendChunk_setFbuf h hnext zlen
  · exact skipChunk_setFbuf h hnext zlen

end WholeChunk

theorem walkStep_setFbuf {s : State} {b : Buffer} (h : s.agreesBelowFlen b) (pos zlen : Nat) :
    walkStep pos zlen (s.setBuf .fbuf b) = (walkStep pos zlen s).setBuf .fbuf b := by
  rw [walkStep, walkStep, fetchChunk_setFbuf h pos]
  cases hf : fetchChunk s pos with
  | atEnd => exact finishWalk_setFbuf pos zlen s b
  | truncated => exact raiseError_parse_setFbuf ..
  | found tag => exact chunkAction_setFbuf h (fetchChunk_found_bound hf).1 tag zlen

/-- FBUF and FLEN are no outputs of PARSE (20_memory.md R66). -/
theorem onlyOutputsDiffer_parse_inputs {s t : State} (h : onlyOutputsDiffer .parse s t) :
    t.fbuf = s.fbuf ∧ t.regs.flen = s.regs.flen :=
  ⟨(congrArg State.fbuf h).trans rfl, (congrArg (fun u => u.regs.flen) h).trans rfl⟩

theorem walkStep_agreesBelowFlen {s : State} {b : Buffer} (h : s.agreesBelowFlen b) (pos zlen : Nat) :
    (walkStep pos zlen s).agreesBelowFlen b := by
  obtain ⟨hfbuf, hflen⟩ := onlyOutputsDiffer_parse_inputs (walkStep_onlyOutputs pos zlen s)
  rwa [State.agreesBelowFlen, hfbuf, hflen]

theorem walk_setFbuf (n : Nat) {s : State} {b : Buffer} (h : s.agreesBelowFlen b) :
    walk n (s.setBuf .fbuf b) = (walk n s).setBuf .fbuf b := by
  induction n generalizing s with
  | zero => rfl
  | succ n ih =>
    cases hs : s.seq with
    | parse pos zlen =>
      simp only [walk, setBuf_seq, hs]
      rw [walkStep_setFbuf h, ih (walkStep_agreesBelowFlen h pos zlen)]
    | idle => simp only [walk, setBuf_seq, hs]
    | recon y prev => simp only [walk, setBuf_seq, hs]

/-! ### The command -/

theorem signatureOk_setFbuf {s : State} {b : Buffer} (h : s.agreesBelowFlen b) :
    signatureOk (s.setBuf .fbuf b) = signatureOk s := by
  rw [Bool.eq_iff_iff, signatureOk_iff, signatureOk_iff, setBuf_regs]
  refine and_congr_right fun hlen => ?_
  have hbytes : b.readBytes 0 8 = s.fbuf.readBytes 0 8 :=
    Buffer.readBytes_congr _ _ _ _ fun k _ hk => h k (by omega)
  rw [← hbytes]
  rfl

theorem parseBody_setFbuf {s : State} {b : Buffer} (h : s.agreesBelowFlen b) :
    parseBody (s.setBuf .fbuf b) = (parseBody s).setBuf .fbuf b := by
  simp only [parseBody, setBuf_cfg, setBuf_regs, signatureOk_setFbuf h]
  split
  · rfl
  split
  · exact walk_setFbuf _ (s := beginWalk s) h
  · rfl

/-- Settles O29: from a ready state PARSE is its rule, which commutes with replacing FBUF. -/
theorem parseReadsNothingBeyondFlen : Obligations.ParseReadsNothingBeyondFlen := by
  intro s t b hready hagree hexec
  rw [exec_parse_ready hready] at hexec
  cases hexec
  rw [exec_parse_ready (s := { s with fbuf := b }) hready]
  exact congrArg Host.Outcome.next (parseBody_setFbuf (s := acceptCommand s) hagree)

end Sys2Proof.Machine
end

section
/-! PROOFS. 41_chunk_reader.md R164: PARSE of a whole file. Between two turns the state is told by the list of chunks read so
far (`State.afterChunks`); a turn at a chunk that is not terminal takes the list one chunk further. -/

namespace Sys2Proof.Machine

open Sys2Proof.Spec

/-! ### Byte strings in a buffer -/

/-- The bytes of `l` lie in the buffer from offset `a` on. -/
def Buffer.holdsAt (b : Buffer) (a : Nat) (l : List Byte) : Prop := b.readBytes a l.length = l

theorem Buffer.readBytes_add (b : Buffer) (a m n : Nat) :
    b.readBytes a (m + n) = b.readBytes a m ++ b.readBytes (a + m) n := by
  simp [Buffer.readBytes, List.range_add, Nat.add_assoc]

theorem Buffer.holdsAt_append (b : Buffer) (a : Nat) (l m : List Byte) :
    b.holdsAt a (l ++ m) ↔ b.holdsAt a l ∧ b.holdsAt (a + l.length) m := by
  rw [Buffer.holdsAt, List.length_append, Buffer.readBytes_add]
  exact ⟨fun h => List.append_inj h (Buffer.readBytes_length ..), fun ⟨hl, hm⟩ => by rw [hl, hm]⟩

theorem Buffer.holdsAt_read {b : Buffer} {a : Nat} {l : List Byte} (h : b.holdsAt a l) {k : Nat} (hk : k < l.length) :
    b.read (a + k) = l.getD k 0 := by
  rw [← Buffer.readBytes_getD b a l.length k hk, h]

theorem Buffer.holdsAt_be32 {b : Buffer} {a : Nat} {v : Word} (h : b.holdsAt a (be32 v)) : b.readBE32 a = v := by
  have hbyte (k : Nat) (hk : k < 4) : b.read (a + k) = (be32 v).getD k 0 := Buffer.holdsAt_read h hk
  rw [Buffer.readBE32, ← Nat.add_zero a, hbyte 0 (by omega), hbyte 1 (by omega), hbyte 2 (by omega), hbyte 3 (by omega)]
  exact be32Of_be32 v

/-- Two byte strings written one behind the other are one byte string. -/
theorem Buffer.writeBytes_append (b : Buffer) (a : Nat) (l m : List Byte) :
    b.writeBytes a (l ++ m) = (b.writeBytes a l).writeBytes (a + l.length) m := by
  induction l generalizing b a with
  | nil => rfl
  | cons v vs ih =>
    rw [List.cons_append, Buffer.writeBytes, Buffer.writeBytes, ih, List.length_cons, Nat.add_right_comm, Nat.add_assoc]

/-! ### Chunks as they lie in a file -/

theorem framed_iff (c : RawChunk) : c.framed = true ↔ c.body.length < 2 ^ 32 ∧ c.trailer.length = 4 := by
  simp only [RawChunk.framed, Bool.and_eq_true, decide_eq_true_eq]

theorem framed_bytes_length {c : RawChunk} (h : c.framed = true) : c.bytes.length = 12 + c.body.length := by
  obtain ⟨-, htrailer⟩ := (framed_iff c).1 h
  simp only [RawChunk.bytes, List.length_append, be32_length, htrailer]
  omega

/-- Every chunk has at least its length, its tag and its trailer. -/
theorem length_le_flatMap_bytes {cs : List RawChunk} (h : ∀ c ∈ cs, c.framed = true) :
    cs.length ≤ (cs.flatMap RawChunk.bytes).length := by
  induction cs with
  | nil => exact Nat.le_refl 0
  | cons c cs ih =>
    rw [List.forall_mem_cons] at h
    obtain ⟨hc, hcs⟩ := h
    have hlen := framed_bytes_length hc
    have hrest := ih hcs
    simp only [List.length_cons, List.flatMap_cons, List.length_append]
    omega

theorem flatMap_bytes_snoc (cs : List RawChunk) (c : RawChunk) :
    (cs ++ [c]).flatMap RawChunk.bytes = cs.flatMap RawChunk.bytes ++ c.bytes := by
  simp

theorem dataOf_append (cs ds : List RawChunk) : dataOf (cs ++ ds) = dataOf cs ++ dataOf ds := by
  simp [dataOf]

theorem dataOf_snoc_data (cs : List RawChunk) {c : RawChunk} (h : c.tag = tagIDAT) :
    dataOf (cs ++ [c]) = dataOf cs ++ c.body := by
  have hc : c.tag = 0x49444154 := h
  simp [dataOf, hc]

theorem dataOf_snoc_other (cs : List RawChunk) {c : RawChunk} (h : c.tag ≠ tagIDAT) :
    dataOf (cs ++ [c]) = dataOf cs := by
  have hc : ¬ c.tag = 0x49444154#32 := h
  simp [dataOf, hc]

theorem lastHeader_snoc_header (cs : List RawChunk) {c : RawChunk} (h : c.tag = tagIHDR) :
    lastHeader (cs ++ [c]) = some c := by
  have hc : c.tag = 0x49484452 := h
  simp [lastHeader, hc]

theorem lastHeader_snoc_other (cs : List RawChunk) {c : RawChunk} (h : c.tag ≠ tagIHDR) :
    lastHeader (cs ++ [c]) = lastHeader cs := by
  have hc : ¬ c.tag = 0x49484452#32 := h
  simp [lastHeader, hc]

/-! ### The walk at a chunk that lies in FBUF -/

section AtRawChunk

variable {s : State} {pos : Nat} {c : RawChunk}
variable (hc : c.framed = true) (h : s.fbuf.holdsAt pos c.bytes)

include hc h

/-- The three fields PARSE reads of a chunk are the chunk's (30_encoding.md R96). -/
theorem rawChunk_fields :
    chunkLength s pos = c.body.length ∧ chunkTag s pos = c.tag ∧ s.fbuf.holdsAt (pos + 8) c.body := by
  obtain ⟨hlen, -⟩ := (framed_iff c).1 hc
  simp only [RawChunk.bytes, Buffer.holdsAt_append, List.length_append, be32_length] at h
  obtain ⟨⟨⟨hlength, htag⟩, hbody⟩, -⟩ := h
  refine ⟨?_, Buffer.holdsAt_be32 htag, hbody⟩
  rw [chunkLength, Buffer.holdsAt_be32 hlength, BitVec.toNat_ofNat, Nat.mod_eq_of_lt hlen]

theorem rawChunk_chunkLength : chunkLength s pos = c.body.length := (rawChunk_fields hc h).1

theorem rawChunk_chunkTag : chunkTag s pos = c.tag := (rawChunk_fields hc h).2.1

theorem rawChunk_nextChunk : nextChunk s pos = pos + c.bytes.length := by
  rw [nextChunk, rawChunk_chunkLength hc h, framed_bytes_length hc, Nat.add_assoc]

theorem rawChunk_payload : payload s pos = c.body := by
  obtain ⟨hlength, -, hbody⟩ := rawChunk_fields hc h
  rw [payload, hlength]
  exact hbody

theorem rawChunk_payloadByte {k : Nat} (hk : k < c.body.length) : payloadByte s pos k = c.body.getD k 0 :=
  Buffer.holdsAt_read (rawChunk_fields hc h).2.2 hk

theorem rawChunk_payloadBE32 {k : Nat} (hk : k + 4 ≤ c.body.length) :
    payloadBE32 s pos k =
      be32Of (c.body.getD k 0) (c.body.getD (k + 1) 0) (c.body.getD (k + 2) 0) (c.body.getD (k + 3) 0) := by
  rw [← rawChunk_payloadByte hc h (k := k) (by omega), ← rawChunk_payloadByte hc h (k := k + 1) (by omega),
    ← rawChunk_payloadByte hc h (k := k + 2) (by omega), ← rawChunk_payloadByte hc h (k := k + 3) (by omega)]
  rfl

/-- An acceptable header chunk passes both of PARSE's checks (R157, R158). -/
theorem rawChunk_headerOk (hok : c.acceptable = true) (htag : c.tag = tagIHDR) :
    c.body.length = 13 ∧ headerFieldsOk s pos := by
  have htag : c.tag = 0x49484452 := htag
  simp only [RawChunk.acceptable, htag, ne_eq, not_true_eq_false, decide_false, Bool.false_or, Bool.and_eq_true,
    beq_iff_eq, decide_eq_true_eq] at hok
  obtain ⟨hdrop, hlen⟩ := hok
  have hfield (k : Nat) (hk : k < 5) : payloadByte s pos (8 + k) = ([8, 6, 0, 0, 0] : List Byte).getD k 0 := by
    rw [rawChunk_payloadByte hc h (by omega), ← hdrop]
    simp [List.getD_eq_getElem?_getD]
  exact ⟨hlen, hfield 0 (by omega), hfield 1 (by omega), hfield 2 (by omega), hfield 3 (by omega), hfield 4 (by omega)⟩

end AtRawChunk

/-! ### The state between two turns -/

/-- The registers after a header chunk as it lies in a file. -/
def Regs.withHeaderChunk (r : Regs) (h : RawChunk) : Regs :=
  r.withHeader (be32Of (h.body.getD 0 0) (h.body.getD 1 0) (h.body.getD 2 0) (h.body.getD 3 0))
    (be32Of (h.body.getD 4 0) (h.body.getD 5 0) (h.body.getD 6 0) (h.body.getD 7 0))

/-- Where PARSE stands, from `s` at the start of the walk, once it has read the chunks `cs` after the signature. -/
def State.afterChunks (s : State) (cs : List RawChunk) : State :=
  { s with
    zbuf := s.zbuf.writeBytes 0 (dataOf cs)
    regs := (lastHeader cs).elim s.regs s.regs.withHeaderChunk
    status := { s.status with hdrSeen := (lastHeader cs).isSome }
    seq := .parse (8 + (cs.flatMap RawChunk.bytes).length) (dataOf cs).length }

@[simp] theorem afterChunks_flen (s : State) (cs : List RawChunk) : (s.afterChunks cs).regs.flen = s.regs.flen := by
  simp only [State.afterChunks]
  cases lastHeader cs <;> rfl

/-- A later header replaces every register an earlier one has loaded (R163). -/
theorem afterChunks_regs_withHeader (s : State) (cs : List RawChunk) (width height : Word) :
    (s.afterChunks cs).regs.withHeader width height = s.regs.withHeader width height := by
  simp only [State.afterChunks]
  cases lastHeader cs <;> rfl

section Turn

variable {s : State} {cs : List RawChunk} {c : RawChunk}
variable (hc : c.framed = true) (h : s.fbuf.holdsAt (8 + (cs.flatMap RawChunk.bytes).length) c.bytes)

include hc h

theorem afterChunks_nextChunk :
    nextChunk (s.afterChunks cs) (8 + (cs.flatMap RawChunk.bytes).length)
      = 8 + ((cs ++ [c]).flatMap RawChunk.bytes).length := by
  rw [rawChunk_nextChunk (s := s.afterChunks cs) hc h, flatMap_bytes_snoc, List.length_append, Nat.add_assoc]

theorem ihdrChunk_afterChunks (hok : c.acceptable = true) (htag : c.tag = tagIHDR) :
    ihdrChunk (8 + (cs.flatMap RawChunk.bytes).length) (dataOf cs).length (s.afterChunks cs)
      = s.afterChunks (cs ++ [c]) := by
  obtain ⟨hlen, hfields⟩ := rawChunk_headerOk (s := s.afterChunks cs) hc h hok htag
  have hlength := (rawChunk_chunkLength (s := s.afterChunks cs) hc h).trans hlen
  have hend := (afterChunks_nextChunk hc h).symm
  rw [nextChunk, hlength] at hend
  have hdata : dataOf (cs ++ [c]) = dataOf cs := dataOf_snoc_other cs (by rw [htag]; decide)
  rw [ihdrChunk_accepted hlength hfields, afterChunks_regs_withHeader,
    rawChunk_payloadBE32 (s := s.afterChunks cs) hc h (by omega),
    rawChunk_payloadBE32 (s := s.afterChunks cs) hc h (by omega)]
  simp only [State.afterChunks, hdata, lastHeader_snoc_header cs htag, hend]
  rfl

theorem idatChunk_afterChunks (htag : c.tag = tagIDAT) (hfits : (dataOf (cs ++ [c])).length ≤ s.cfg.zbufCap.toNat) :
    idatChunk (8 + (cs.flatMap RawChunk.bytes).length) (dataOf cs).length (s.afterChunks cs)
      = s.afterChunks (cs ++ [c]) := by
  have hlength := rawChunk_chunkLength (s := s.afterChunks cs) hc h
  have hdata : dataOf (cs ++ [c]) = dataOf cs ++ c.body := dataOf_snoc_data cs htag
  have hheader : lastHeader (cs ++ [c]) = lastHeader cs := lastHeader_snoc_other cs (by rw [htag]; decide)
  rw [hdata, List.length_append] at hfits
  rw [idatChunk_fits (by rw [hlength]; exact hfits), afterChunks_nextChunk hc h,
    rawChunk_payload (s := s.afterChunks cs) hc h, hlength]
  simp only [State.afterChunks, hdata, hheader, Buffer.writeBytes_append, Nat.zero_add, List.length_append]

theorem skipChunk_afterChunks (hheader : c.tag ≠ tagIHDR) (hdata : c.tag ≠ tagIDAT) :
    skipChunk (8 + (cs.flatMap RawChunk.bytes).length) (dataOf cs).length (s.afterChunks cs)
      = s.afterChunks (cs ++ [c]) := by
  rw [skipChunk, afterChunks_nextChunk hc h]
  simp only [State.afterChunks, dataOf_snoc_other cs hdata, lastHeader_snoc_other cs hheader]

/-- A turn at a chunk that is not terminal: each kind of chunk adds itself to the list of those read. -/
theorem walkStep_afterChunks (hok : c.acceptable = true) (hend : c.tag ≠ tagIEND)
    (hflen : 8 + ((cs ++ [c]).flatMap RawChunk.bytes).length ≤ s.regs.flen.toNat)
    (hfits : (dataOf (cs ++ [c])).length ≤ s.cfg.zbufCap.toNat) :
    walkStep (8 + (cs.flatMap RawChunk.bytes).length) (dataOf cs).length (s.afterChunks cs)
      = s.afterChunks (cs ++ [c]) := by
  have hnext := afterChunks_nextChunk hc h
  rw [walkStep_found _ (by rw [hnext, afterChunks_flen]; exact hflen),
    rawChunk_chunkTag (s := s.afterChunks cs) hc h, chunkAction]
  split_ifs with hheader hdata
  · exact ihdrChunk_afterChunks hc h hok hheader
  · exact idatChunk_afterChunks hc h hdata hfits
  · exact skipChunk_afterChunks hc h hheader hdata

end Turn

theorem walk_parse (n : Nat) {s : State} {pos zlen : Nat} (h : s.seq = .parse pos zlen) :
    walk (n + 1) s = walk n (walkStep pos zlen s) := by
  simp only [walk, h]

theorem walk_idle (n : Nat) {s : State} (h : s.seq = .idle) : walk n s = s := by
  cases n <;> simp only [walk, h]

/-- One turn for each chunk, by induction on the chunks still to be read. -/
theorem walk_afterChunks {s : State} (n : Nat) (cs ds : List RawChunk)
    (hds : ∀ c ∈ ds, c.framed = true ∧ c.acceptable = true ∧ c.tag ≠ tagIEND)
    (hheld : s.fbuf.holdsAt (8 + (cs.flatMap RawChunk.bytes).length) (ds.flatMap RawChunk.bytes))
    (hflen : 8 + ((cs ++ ds).flatMap RawChunk.bytes).length ≤ s.regs.flen.toNat)
    (hfits : (dataOf (cs ++ ds)).length ≤ s.cfg.zbufCap.toNat) :
    walk (ds.length + n) (s.afterChunks cs) = walk n (s.afterChunks (cs ++ ds)) := by
  induction ds generalizing cs with
  | nil => rw [List.append_nil, List.length_nil, Nat.zero_add]
  | cons c ds ih =>
    rw [List.forall_mem_cons] at hds
    obtain ⟨⟨hc, hok, hend⟩, hds⟩ := hds
    rw [List.flatMap_cons, Buffer.holdsAt_append] at hheld
    obtain ⟨hheldc, hheldds⟩ := hheld
    rw [List.append_cons] at hflen hfits ⊢
    have hturn := walkStep_afterChunks hc hheldc hok hend
      (by rw [List.flatMap_append, List.length_append] at hflen; omega)
      (by rw [dataOf_append, List.length_append] at hfits; omega)
    rw [List.length_cons, Nat.add_right_comm, walk_parse (s := s.afterChunks cs) _ rfl, hturn]
    refine ih (cs ++ [c]) hds ?_ hflen hfits
    rwa [flatMap_bytes_snoc, List.length_append, ← Nat.add_assoc]

/-! ### The whole file -/

/-- What lies in the file behind the chunks that are not terminal. -/
def stopBytes : Option (RawChunk × List Byte) → List Byte
  | none => []
  | some (c, rest) => c.bytes ++ rest

theorem fileOf_eq (front : List RawChunk) (stop : Option (RawChunk × List Byte)) :
    fileOf front stop = signature ++ (front.flatMap RawChunk.bytes ++ stopBytes stop) := by
  cases stop <;> simp [fileOf, stopBytes]

/-- FBUF[0..FLEN) is the file, part by part. -/
structure State.HoldsFile (s : State) (front : List RawChunk) (stop : Option (RawChunk × List Byte)) : Prop where
  signature : s.fbuf.holdsAt 0 signature
  chunks : s.fbuf.holdsAt 8 (front.flatMap RawChunk.bytes)
  rest : s.fbuf.holdsAt (8 + (front.flatMap RawChunk.bytes).length) (stopBytes stop)
  flen : s.regs.flen.toNat = 8 + (front.flatMap RawChunk.bytes).length + (stopBytes stop).length

theorem State.HoldsFile.eight_le_flen {s : State} {front : List RawChunk} {stop : Option (RawChunk × List Byte)}
    (h : s.HoldsFile front stop) : 8 ≤ s.regs.flen.toNat := by
  have hflen := h.flen
  omega

theorem holdsFile_of_readBytes {s : State} {front : List RawChunk} {stop : Option (RawChunk × List Byte)}
    (hflen : s.regs.flen.toNat = (fileOf front stop).length)
    (hbytes : s.fbuf.readBytes 0 s.regs.flen.toNat = fileOf front stop) : s.HoldsFile front stop := by
  have hheld : s.fbuf.holdsAt 0 (fileOf front stop) := by rw [Buffer.holdsAt, ← hflen, hbytes]
  have hsize : signature.length = 8 := rfl
  rw [fileOf_eq, Buffer.holdsAt_append, Buffer.holdsAt_append, hsize, Nat.zero_add] at hheld
  obtain ⟨hsig, hchunks, hrest⟩ := hheld
  rw [fileOf_eq, List.length_append, List.length_append, hsize, ← Nat.add_assoc] at hflen
  exact ⟨hsig, hchunks, hrest, hflen⟩

/-- The end of the walk after the chunks `cs`, a header among them. -/
def State.afterFile (s : State) (cs : List RawChunk) (ended : Bool) : State :=
  complete
    { s.afterChunks cs with
      regs := { (s.afterChunks cs).regs with zlen := BitVec.ofNat 32 (dataOf cs).length }
      status := { (s.afterChunks cs).status with endSeen := ended } }

/-- The last turn: at FLEN where no terminal chunk is, else at the terminal chunk, whatever its length (R156, R160). -/
theorem walkStep_afterChunks_stop {s : State} {front : List RawChunk} {stop : Option (RawChunk × List Byte)}
    (hfile : s.HoldsFile front stop) (hstop : ∀ c rest, stop = some (c, rest) → c.framed = true ∧ c.tag = tagIEND)
    (hseen : (lastHeader front).isSome = true) (hend : s.status.endSeen = false) :
    walkStep (8 + (front.flatMap RawChunk.bytes).length) (dataOf front).length (s.afterChunks front)
      = s.afterFile front stop.isSome := by
  have hrest := hfile.rest
  have hflen := hfile.flen
  cases stop with
  | none =>
    rw [walkStep_atEnd _ (by rw [afterChunks_flen, hflen]; rfl), finishWalk_seen _ _ hseen]
    simp only [State.afterFile, Option.isSome_none, ← hend]
    rfl
  | some last =>
    obtain ⟨c, rest⟩ := last
    obtain ⟨hc, htag⟩ := hstop c rest rfl
    rw [stopBytes, Buffer.holdsAt_append] at hrest
    obtain ⟨hheld, -⟩ := hrest
    rw [stopBytes, List.length_append] at hflen
    have hnext := rawChunk_nextChunk (s := s.afterChunks front) hc hheld
    rw [walkStep_found _ (by rw [hnext, afterChunks_flen]; omega), rawChunk_chunkTag (s := s.afterChunks front) hc hheld,
      htag]
    exact finishWalk_seen (s := setEndSeen (s.afterChunks front)) _ _ hseen

/-- The walk over a whole file: a turn for each chunk of the front, then the last one. -/
theorem walk_file {s : State} {front : List RawChunk} {stop : Option (RawChunk × List Byte)}
    (hfile : s.HoldsFile front stop)
    (hfront : ∀ c ∈ front, c.framed = true ∧ c.acceptable = true ∧ c.tag ≠ tagIEND)
    (hstop : ∀ c rest, stop = some (c, rest) → c.framed = true ∧ c.tag = tagIEND)
    (hseen : (lastHeader front).isSome = true) (hend : s.status.endSeen = false)
    (hfits : (dataOf front).length ≤ s.cfg.zbufCap.toNat) :
    walk (s.regs.flen.toNat + 1) (s.afterChunks []) = s.afterFile front stop.isSome := by
  have hflen := hfile.flen
  have hcount : front.length ≤ (front.flatMap RawChunk.bytes).length :=
    length_le_flatMap_bytes fun c hc => (hfront c hc).1
  obtain ⟨n, hn⟩ : ∃ n, s.regs.flen.toNat + 1 = front.length + (n + 1) := ⟨s.regs.flen.toNat - front.length, by omega⟩
  calc walk (s.regs.flen.toNat + 1) (s.afterChunks [])
    _ = walk (front.length + (n + 1)) (s.afterChunks []) := by rw [hn]
    _ = walk (n + 1) (s.afterChunks front) :=
        walk_afterChunks (n + 1) [] front hfront hfile.chunks (by rw [List.nil_append]; omega) hfits
    _ = walk n (s.afterFile front stop.isSome) := by
        rw [walk_parse (s := s.afterChunks front) n rfl, walkStep_afterChunks_stop hfile hstop hseen hend]
    _ = s.afterFile front stop.isSome := walk_idle n rfl

/-- Settles O28: PARSE passes its checks and walks over the file; ZBUF is the old one with the data written from 0. -/
theorem parseReadsAWholeFile : Obligations.ParseReadsAWholeFile := by
  intro s front stop h hready hwf hfront hstop hlast hflen hcap hbytes hfits
  have hfile : (beginWalk (acceptCommand s)).HoldsFile front stop := { holdsFile_of_readBytes hflen hbytes with }
  have hsig : signatureOk (acceptCommand s) = true :=
    (signatureOk_iff _).2 ⟨hfile.eight_le_flen, hfile.signature⟩
  obtain ⟨-, herr, hidle⟩ := (ready_iff s).1 hready
  refine ⟨s.zbuf.writeBytes 0 (dataOf front), ?_, fun a ha => ?_, fun a ha => ?_⟩
  · have hwalk := walk_file hfile hfront hstop (by simp [hlast]) rfl hfits
    rw [exec_parse_ready hready, parseBody_walk (s := acceptCommand s) hcap hsig]
    refine congrArg Host.Outcome.next (Eq.trans hwalk ?_)
    simp only [State.afterFile, State.afterChunks, hlast, hidle, Option.elim_some, Option.isSome_some, complete,
      beginWalk_status, acceptCommand_status, herr]
    rfl
  · rw [Buffer.read_writeBytes _ _ _ _ hwf, if_pos (by omega), Nat.sub_zero]
  · rw [Buffer.read_writeBytes _ _ _ _ hwf, if_neg (by omega)]

end Sys2Proof.Machine
end

section
/-! PROOFS. 42_scanline_reconstructor.md R184 to R191: the five predictors as formulas on numbers, and what a filter does to
one row. -/

namespace Sys2Proof.Machine

open Sys2Proof.Spec

/-! ### PaethPredictor (R190) -/

/-- The distance of a candidate from p = a + b − c (R190). -/
def paethDistance (a b c x : Byte) : Nat := ((a.toNat : Int) + b.toNat - c.toNat - (x.toNat : Int)).natAbs

section Paeth

variable {a b c : Byte}

theorem paethPredictor_eq_left (hb : paethDistance a b c a ≤ paethDistance a b c b)
    (hc : paethDistance a b c a ≤ paethDistance a b c c) : paethPredictor a b c = a :=
  if_pos ⟨hb, hc⟩

theorem paethPredictor_eq_up (ha : paethDistance a b c b < paethDistance a b c a)
    (hc : paethDistance a b c b ≤ paethDistance a b c c) : paethPredictor a b c = b :=
  (if_neg fun h => Nat.not_le.2 ha h.1).trans (if_pos hc)

theorem paethPredictor_eq_upperLeft (ha : paethDistance a b c c < paethDistance a b c a)
    (hb : paethDistance a b c c < paethDistance a b c b) : paethPredictor a b c = c :=
  (if_neg fun h => Nat.not_le.2 ha h.2).trans (if_neg (Nat.not_le.2 hb))

end Paeth

/-- Settles O37: the candidate that is nearest, the first of those in a tie, is the one returned. -/
theorem paethPredictorIsTheNearest : Obligations.PaethPredictorIsTheNearest := by
  intro a b c p d r
  have hleft : d a ≤ d b → d a ≤ d c → r = a := paethPredictor_eq_left
  have hup : d b < d a → d b ≤ d c → r = b := paethPredictor_eq_up
  have hupperLeft : d c < d a → d c < d b → r = c := paethPredictor_eq_upperLeft
  suffices hnearest : (r = a ∨ r = b ∨ r = c) ∧ d r ≤ d a ∧ d r ≤ d b ∧ d r ≤ d c by
    obtain ⟨hcand, hda, hdb, hdc⟩ := hnearest
    exact ⟨hcand, hda, hdb, hdc, hleft, hup, hupperLeft⟩
  by_cases ha : d a ≤ d b ∧ d a ≤ d c
  · obtain ⟨hab, hac⟩ := ha
    rw [hleft hab hac]
    exact ⟨.inl rfl, le_rfl, hab, hac⟩
  by_cases hb : d b ≤ d c
  · have hba : d b < d a := by omega
    rw [hup hba hb]
    exact ⟨.inr (.inl rfl), hba.le, le_rfl, hb⟩
  · have hcb : d c < d b := Nat.not_le.1 hb
    have hca : d c < d a := by omega
    rw [hupperLeft hca hcb]
    exact ⟨.inr (.inr rfl), hca.le, hcb.le, le_rfl⟩

/-- Settles O38: linear arithmetic; where c is at distance 0 from p and a is not, c is the nearest. -/
theorem paethEquivalentForms : Obligations.PaethEquivalentForms := by
  intro a b c p pa pb pc
  refine ⟨by omega, by omega, by omega, fun heq hne => ?_, by decide, by decide⟩
  have hne' : a.toNat ≠ b.toNat := mt BitVec.eq_of_toNat_eq hne
  have hmid : pc = 0 := by omega
  have hc : pc < pa := by omega
  exact ⟨hmid, paethPredictor_eq_upperLeft hc (hc.trans_eq heq)⟩

/-! ### The predictors as formulas on numbers -/

/-- A predictor of bytes is a formula of its neighbours' values. -/
def Computes (pred : Byte → Byte → Byte → Byte) (formula : Nat → Nat → Nat → Nat) : Prop :=
  ∀ a b c, (pred a b c).toNat = formula a.toNat b.toNat c.toNat

theorem predNone_computes : Computes predNone fun _ _ _ => 0 := fun _ _ _ => rfl

theorem predSub_computes : Computes predSub fun a _ _ => a := fun _ _ _ => rfl

theorem predUp_computes : Computes predUp fun _ b _ => b := fun _ _ _ => rfl

/-- Half the sum of two bytes is a byte, so nothing is lost (R187). -/
theorem predAverage_computes : Computes predAverage fun a b _ => (a + b) / 2 := by
  intro a b c
  have ha := a.isLt
  have hb := b.isLt
  exact (BitVec.toNat_ofNat ..).trans (Nat.mod_eq_of_lt (by omega))

theorem paethPredictor_computes : Computes paethPredictor paeth := by
  intro a b c
  simp only [paethPredictor, paeth, apply_ite BitVec.toNat]

/-! ### One row -/

theorem fourBack_toNat (line : List Byte) (i : Nat) :
    (fourBack line i).toNat = if 4 ≤ i then (line.getD (i - 4) 0).toNat else 0 :=
  apply_ite BitVec.toNat ..

/-- The recurrence of a row on numbers (R181 to R183, R195). -/
theorem reconBytes_toNat {pred : Byte → Byte → Byte → Byte} {formula : Nat → Nat → Nat → Nat}
    (hp : Computes pred formula) (prev raw : List Byte) {i : Nat} (hi : i < raw.length) :
    ((reconBytes pred prev [] raw).getD i 0).toNat =
      ((raw.getD i 0).toNat
          + formula (if 4 ≤ i then ((reconBytes pred prev [] raw).getD (i - 4) 0).toNat else 0) (prev.getD i 0).toNat
              (if 4 ≤ i then (prev.getD (i - 4) 0).toNat else 0))
        % 256 := by
  rw [reconBytes_getD pred prev [] raw i (Nat.zero_le i) (by simpa using hi), BitVec.toNat_add, hp, left, upperLeft,
    fourBack_toNat, fourBack_toNat]
  rfl

theorem rawRow_getD (s : State) (y : Nat) {i : Nat} (hi : i < stride s.regs.hdrWidth.toNat) :
    (rawRow s y).getD i 0 = rawByte s y i :=
  Buffer.readBytes_getD _ _ _ _ hi

theorem reconBytes_rawRow_length (pred : Byte → Byte → Byte → Byte) (prev : List Byte) (s : State) (y : Nat) :
    (reconBytes pred prev [] (rawRow s y)).length = stride s.regs.hdrWidth.toNat := by
  rw [reconBytes_length, rawRow_length, List.length_nil, Nat.zero_add]

theorem filterRow_rowDone {pred : Byte → Byte → Byte → Byte} {formula : Nat → Nat → Nat → Nat}
    (hp : Computes pred formula) (y : Nat) (prev : List Byte) {s : State} (hwf : Memory.wf s.gsrc.cells = true) :
    rowDone formula y prev s (filterRow pred y prev s) := by
  have hlen := reconBytes_rawRow_length pred prev s y
  refine ⟨_, _, rfl, hlen, fun i hi => ?_, fun i hi => ?_, fun a ha => ?_⟩
  · rw [reconBytes_toNat hp prev (rawRow s y) (by rwa [rawRow_length]), rawRow_getD s y hi]
  · rw [Buffer.read_writeBytes _ _ _ _ hwf, hlen, stride, if_pos (by omega), Nat.add_sub_cancel_left]
  · rw [Buffer.read_writeBytes _ _ _ _ hwf, hlen, stride, if_neg (by omega)]

/-! ### The filters where RECON is running -/

theorem whileReconstructing_recon {act : Nat → List Byte → State → State} {s : State} {y : Nat} {prev : List Byte}
    (h : s.seq = .recon y prev) : whileReconstructing act s = .next (act y prev s) := by
  simp only [whileReconstructing, h]

theorem whileReconstructing_rowDone {pred : Byte → Byte → Byte → Byte} {formula : Nat → Nat → Nat → Nat}
    (hp : Computes pred formula) {s : State} {y : Nat} {prev : List Byte} (h : s.seq = .recon y prev)
    (hwf : Memory.wf s.gsrc.cells = true) :
    ∃ t, whileReconstructing (filterRow pred) s = .next t ∧ rowDone formula y prev s t :=
  ⟨_, whileReconstructing_recon h, filterRow_rowDone hp y prev hwf⟩

/-- Settles O30: each of the three filters is its row action, whose predictor computes the formula. -/
theorem noneSubUpReconstructARow : Obligations.NoneSubUpReconstructARow :=
  ⟨rfl, rfl, rfl, fun _ _ _ h hwf =>
    ⟨whileReconstructing_rowDone predNone_computes h hwf, whileReconstructing_rowDone predSub_computes h hwf,
      whileReconstructing_rowDone predUp_computes h hwf⟩⟩

/-- Settles O31: likewise, with half the sum that does not wrap. -/
theorem averageReconstructsARow : Obligations.AverageReconstructsARow :=
  ⟨rfl, fun _ _ _ h hwf => whileReconstructing_rowDone predAverage_computes h hwf⟩

/-- In row 0 PaethPredictor is left (R188): p = a. -/
theorem paeth_left (a : Nat) : paeth a 0 0 = a := by
  simp [paeth]

/-- In the first pixel PaethPredictor is up (R188): p = b. -/
theorem paeth_up (b : Nat) : paeth 0 b 0 = b := by
  simp only [paeth]
  split_ifs <;> omega

/-- Settles O32: likewise, with PaethPredictor on integers. -/
theorem paethReconstructsARow : Obligations.PaethReconstructsARow :=
  ⟨rfl, fun _ _ _ h hwf => whileReconstructing_rowDone paethPredictor_computes h hwf, paeth_left, paeth_up⟩

/-! ### A row under an illegal tag (R189) -/

theorem decode_filter_illegal {b : Byte} (h : 4 < b.toNat) : decode (.filter b) = .filtIllegal b :=
  decode_unlisted (c := .filter b) (mt (mem_legalFilterTags_iff b).1 (Nat.not_le.2 h))

theorem exec_filtIllegal_records {s : State} {y : Nat} {prev : List Byte} (b : Byte) (h : s.seq = .recon y prev) :
    ∃ t, exec (.filtIllegal b) s = .next t ∧ records t 4 y b.toNat :=
  ⟨_, whileReconstructing_recon h, raiseError_records .recon .filterTag y b.toNat 4 s rfl⟩

/-- Settles O33: the step runs what the tag decodes to, the illegal row, which raises. -/
theorem illegalFilterTagIsRecorded : Obligations.IllegalFilterTagIsRecorded := by
  refine ⟨fun b hb => decode_filter_illegal hb, fun s y prev b hs => exec_filtIllegal_records b hs, ?_⟩
  intro s y prev hs hr hy htag
  have hdecode : decode (.filter (rowTag s y)) = .filtIllegal (tagByte s y) := decode_filter_illegal htag
  rw [step_filter hs ((resetPending_eq_false_iff s).2 hr) hy, hdecode]
  exact exec_filtIllegal_records _ hs

end Sys2Proof.Machine
end

section
/-! PROOFS. 42_scanline_reconstructor.md R181 to R183: RECON. Between two turns of a stream with legal tags the state is told
by the number of rows done (`State.afterRows`); a turn takes it one row further. -/

namespace Sys2Proof.Machine

open Sys2Proof.Spec

/-! ### A normal end from a ready state -/

theorem complete_acceptCommand {s : State} (h : s.ready = true) :
    complete (acceptCommand s) = { s with status := doneStatus s.status } := by
  obtain ⟨hbusy, -, hidle⟩ := (ready_iff s).1 h
  simp only [complete, acceptCommand, doneStatus, ← hbusy, ← hidle]

/-! ### The checks before the rows -/

theorem exec_recon_ready {s : State} (h : s.ready = true) : exec .recon s = .next (reconBody (acceptCommand s)) :=
  operation_ready reconBody h

theorem reconBody_streamBeyondCap {s : State} (h : s.cfg.rbufCap.toNat < s.regs.rlen.toNat) :
    reconBody s = raiseError .recon .param 0 0 s :=
  if_pos h

section Checks

variable {s : State} (hlen : s.regs.rlen.toNat ≤ s.cfg.rbufCap.toNat)

include hlen

theorem reconBody_gridBeyondCap
    (h : s.cfg.gridCap.toNat < 4 * s.regs.hdrWidth.toNat * s.regs.hdrHeight.toNat) :
    reconBody s = raiseError .recon .capacity 0 0 s := by
  rw [reconBody, if_neg (Nat.not_lt.2 hlen), if_pos h]

variable (hgrid : 4 * s.regs.hdrWidth.toNat * s.regs.hdrHeight.toNat ≤ s.cfg.gridCap.toNat)

include hgrid

theorem reconBody_streamTooShort
    (h : s.regs.rlen.toNat < streamLength s.regs.hdrWidth.toNat s.regs.hdrHeight.toNat) :
    reconBody s = raiseError .recon .truncated s.regs.rlen.toNat 0 s := by
  rw [reconBody, if_neg (Nat.not_lt.2 hlen), if_neg (Nat.not_lt.2 hgrid), if_pos h]

theorem reconBody_rows (h : streamLength s.regs.hdrWidth.toNat s.regs.hdrHeight.toNat ≤ s.regs.rlen.toNat) :
    reconBody s = rows (s.regs.hdrHeight.toNat + 1) (beginRows s) := by
  rw [reconBody, if_neg (Nat.not_lt.2 hlen), if_neg (Nat.not_lt.2 hgrid), if_neg (Nat.not_lt.2 h)]

end Checks

/-- Settles O35: one lemma for each check, reached where those before it pass. -/
theorem reconChecksItsOperands : Obligations.ReconChecksItsOperands := by
  intro s hready
  rw [exec_recon_ready hready]
  refine ⟨fun hlong => ?_, fun hlen hlarge => ?_, fun hlen hgrid hshort => ?_⟩
  · exact ⟨_, rfl, reconBody_streamBeyondCap (s := acceptCommand s) hlong ▸ raiseError_records .recon .param 0 0 9 _ rfl⟩
  · exact ⟨_, rfl,
      reconBody_gridBeyondCap (s := acceptCommand s) hlen hlarge ▸ raiseError_records .recon .capacity 0 0 8 _ rfl⟩
  · exact ⟨_, rfl,
      reconBody_streamTooShort (s := acceptCommand s) hlen hgrid hshort ▸
        raiseError_records .recon .truncated _ 0 6 _ rfl⟩

/-! ### The predictor of a legal tag -/

/-- The predictor that a tag selects (30_encoding.md R101); of no account where the tag is illegal. -/
def tagPredictor (tag : Byte) : Byte → Byte → Byte → Byte :=
  if tag = 0x00 then predNone
  else if tag = 0x01 then predSub
  else if tag = 0x02 then predUp
  else if tag = 0x03 then predAverage
  else paethPredictor

theorem legalTag_cases {tag : Byte} (h : tag.toNat ≤ 4) : tag = 0 ∨ tag = 1 ∨ tag = 2 ∨ tag = 3 ∨ tag = 4 := by
  simpa only [legalFilterTags, List.mem_cons, List.not_mem_nil, or_false] using (mem_legalFilterTags_iff tag).2 h

theorem rowAction_legal {tag : Byte} (h : tag.toNat ≤ 4) (y : Nat) (prev : List Byte) (s : State) :
    rowAction tag y prev s = filterRow (tagPredictor tag) y prev s := by
  rcases legalTag_cases h with rfl | rfl | rfl | rfl | rfl <;> rfl

theorem tagPredictor_computes {tag : Byte} (h : tag.toNat ≤ 4) : Computes (tagPredictor tag) (predictor tag.toNat) := by
  rcases legalTag_cases h with rfl | rfl | rfl | rfl | rfl
  · exact predNone_computes
  · exact predSub_computes
  · exact predUp_computes
  · exact predAverage_computes
  · exact paethPredictor_computes

/-! ### The rows of a stream -/

/-- PREV before row y (10_state.md R46): all zero before row 0, then the row reconstructed last. -/
def prevRow (s : State) : Nat → List Byte
  | 0 => List.replicate (stride s.regs.hdrWidth.toNat) 0
  | y + 1 => reconBytes (tagPredictor (rowTag s y)) (prevRow s y) [] (rawRow s y)

theorem prevRow_length (s : State) (y : Nat) : (prevRow s y).length = stride s.regs.hdrWidth.toNat := by
  cases y with
  | zero => exact List.length_replicate
  | succ y => exact reconBytes_rawRow_length ..

theorem prevRow_zero_getD (s : State) (i : Nat) : (prevRow s 0).getD i 0 = 0 := by
  rw [prevRow, List.getD_eq_getElem?_getD]
  exact List.getElem?_getD_replicate_default_eq ..

/-- The bytes of rows 0 to y − 1 of the grid, row after row (00_scope.md R13). -/
def gridBytes (s : State) (y : Nat) : List Byte := (List.range y).flatMap fun k => prevRow s (k + 1)

theorem gridBytes_succ (s : State) (y : Nat) : gridBytes s (y + 1) = gridBytes s y ++ prevRow s (y + 1) := by
  simp [gridBytes, List.range_succ]

theorem gridBytes_length (s : State) (y : Nat) : (gridBytes s y).length = y * stride s.regs.hdrWidth.toNat := by
  simp [gridBytes, List.length_flatMap, prevRow_length]

/-- A place in a string of h rows of n bytes each is before the end. -/
theorem row_place_lt {h n y i : Nat} (hy : y < h) (hi : i < n) : y * n + i < h * n :=
  calc y * n + i < y * n + n := Nat.add_lt_add_left hi _
    _ = (y + 1) * n := (Nat.succ_mul y n).symm
    _ ≤ h * n := Nat.mul_le_mul_right n hy

/-- Byte i of row y in a string of rows of one length. -/
theorem getD_flatMap_rows {row : Nat → List Byte} {n : Nat} (hn : ∀ k, (row k).length = n) {h y i : Nat} (hy : y < h)
    (hi : i < n) : ((List.range h).flatMap row).getD (y * n + i) 0 = (row y).getD i 0 := by
  have hlen (k : Nat) : ((List.range k).flatMap row).length = k * n := by simp [List.length_flatMap, hn]
  induction h with
  | zero => exact absurd hy (Nat.not_lt_zero y)
  | succ h ih =>
    rw [List.range_succ, List.flatMap_append, List.flatMap_singleton]
    rcases Nat.lt_succ_iff_lt_or_eq.1 hy with hlt | rfl
    · rw [List.getD_append _ _ _ _ (by rw [hlen]; exact row_place_lt hlt hi), ih hlt]
    · rw [List.getD_append_right _ _ _ _ (by rw [hlen]; exact Nat.le_add_right ..), hlen, Nat.add_sub_cancel_left]

theorem gridBytes_getD (s : State) {h y i : Nat} (hy : y < h) (hi : i < stride s.regs.hdrWidth.toNat) :
    (gridBytes s h).getD (y * stride s.regs.hdrWidth.toNat + i) 0 = (prevRow s (y + 1)).getD i 0 :=
  getD_flatMap_rows (fun k => prevRow_length s (k + 1)) hy hi

/-! ### The turns of the row loop -/

/-- Where RECON stands, from `s` at its start, once it has reconstructed the rows below y. -/
def State.afterRows (s : State) (y : Nat) : State :=
  { s with gsrc := s.gsrc.writeBytes 0 (gridBytes s y), seq := .recon y (prevRow s y) }

theorem beginRows_eq (s : State) : beginRows s = s.afterRows 0 := rfl

theorem rowStep_afterRows {s : State} {y : Nat} (hy : y < s.regs.hdrHeight.toNat) (htag : (rowTag s y).toNat ≤ 4) :
    rowStep y (prevRow s y) (s.afterRows y) = s.afterRows (y + 1) := by
  have hrow : rowStep y (prevRow s y) (s.afterRows y)
      = filterRow (tagPredictor (rowTag s y)) y (prevRow s y) (s.afterRows y) :=
    (if_pos hy).trans (rowAction_legal htag ..)
  have hgrid : s.gsrc.writeBytes 0 (gridBytes s (y + 1))
      = (s.gsrc.writeBytes 0 (gridBytes s y)).writeBytes (y * stride s.regs.hdrWidth.toNat) (prevRow s (y + 1)) := by
    rw [gridBytes_succ, Buffer.writeBytes_append, gridBytes_length, Nat.zero_add]
  rw [hrow, State.afterRows, State.afterRows, hgrid]
  rfl

theorem rows_recon (n : Nat) {s : State} {y : Nat} {prev : List Byte} (h : s.seq = .recon y prev) :
    rows (n + 1) s = rows n (rowStep y prev s) := by
  simp only [rows, h]

theorem rows_idle (n : Nat) {s : State} (h : s.seq = .idle) : rows n s = s := by
  cases n <;> simp only [rows, h]

/-- One turn for each row under a legal tag, by induction on the rows done. -/
theorem rows_afterRows {s : State} (n : Nat) {y : Nat} (hy : y ≤ s.regs.hdrHeight.toNat)
    (htags : ∀ k, k < y → (rowTag s k).toNat ≤ 4) : rows (y + n) (beginRows s) = rows n (s.afterRows y) := by
  induction y generalizing n with
  | zero => rw [Nat.zero_add, beginRows_eq]
  | succ y ih =>
    calc rows (y + 1 + n) (beginRows s)
      _ = rows (y + (n + 1)) (beginRows s) := by rw [Nat.add_assoc, Nat.add_comm 1 n]
      _ = rows (n + 1) (s.afterRows y) := ih (n + 1) (Nat.le_of_succ_le hy) fun k hk => htags k (Nat.lt_succ_of_lt hk)
      _ = rows n (rowStep y (prevRow s y) (s.afterRows y)) := rows_recon n rfl
      _ = rows n (s.afterRows (y + 1)) := by rw [rowStep_afterRows hy (htags y (Nat.lt_succ_self y))]

theorem rows_all {s : State} (htags : ∀ k, k < s.regs.hdrHeight.toNat → (rowTag s k).toNat ≤ 4) :
    rows (s.regs.hdrHeight.toNat + 1) (beginRows s) = finishRecon (s.afterRows s.regs.hdrHeight.toNat) := by
  rw [rows_afterRows 1 le_rfl htags, rows_recon 0 (s := s.afterRows _) rfl]
  exact if_neg (Nat.lt_irrefl _)

/-! ### The grid -/

/-- GSRC after RECON of a stream with legal tags. -/
def reconGrid (s : State) : Buffer := s.gsrc.writeBytes 0 (gridBytes s s.regs.hdrHeight.toNat)

theorem prevRow_acceptCommand (s : State) (y : Nat) : prevRow (acceptCommand s) y = prevRow s y := by
  induction y with
  | zero => rfl
  | succ y ih =>
    rw [prevRow, ih]
    rfl

theorem reconGrid_acceptCommand (s : State) : reconGrid (acceptCommand s) = reconGrid s := by
  simp only [reconGrid, gridBytes, prevRow_acceptCommand, acceptCommand_gsrc, acceptCommand_regs]

theorem exec_recon_legal {s : State} (hready : s.ready = true) (hlen : s.regs.rlen.toNat ≤ s.cfg.rbufCap.toNat)
    (hgrid : 4 * s.regs.hdrWidth.toNat * s.regs.hdrHeight.toNat ≤ s.cfg.gridCap.toNat)
    (hstream : streamLength s.regs.hdrWidth.toNat s.regs.hdrHeight.toNat ≤ s.regs.rlen.toNat)
    (htags : ∀ k, k < s.regs.hdrHeight.toNat → (rowTag s k).toNat ≤ 4) :
    exec .recon s =
      .next
        { s with
          gsrc := reconGrid s
          regs := { s.regs with sw := s.regs.hdrWidth, sh := s.regs.hdrHeight }
          status := doneStatus s.status } := by
  have hend : finishRecon ((acceptCommand s).afterRows s.regs.hdrHeight.toNat) =
      { complete (acceptCommand s) with
        gsrc := reconGrid (acceptCommand s)
        regs := { s.regs with sw := s.regs.hdrWidth, sh := s.regs.hdrHeight } } := rfl
  rw [exec_recon_ready hready, reconBody_rows (s := acceptCommand s) hlen hgrid hstream,
    rows_all (s := acceptCommand s) htags, acceptCommand_regs, hend, complete_acceptCommand hready,
    reconGrid_acceptCommand]

section Grid

variable {s : State} (hwf : Memory.wf s.gsrc.cells = true)

include hwf

theorem reconGrid_read_row {y i : Nat} (hy : y < s.regs.hdrHeight.toNat) (hi : i < stride s.regs.hdrWidth.toNat) :
    (reconGrid s).read (y * stride s.regs.hdrWidth.toNat + i) = (prevRow s (y + 1)).getD i 0 := by
  have hplace := row_place_lt hy hi
  rw [reconGrid, Buffer.read_writeBytes _ _ _ _ hwf, gridBytes_length, if_pos (by omega), Nat.sub_zero,
    gridBytes_getD s hy hi]

theorem reconGrid_read_beyond {a : Nat} (ha : s.regs.hdrHeight.toNat * stride s.regs.hdrWidth.toNat ≤ a) :
    (reconGrid s).read a = s.gsrc.read a := by
  rw [reconGrid, Buffer.read_writeBytes _ _ _ _ hwf, gridBytes_length, if_neg (by omega)]

/-- What PREV holds at row y is what the grid holds above it, 0 where nothing is above (R182). -/
theorem prevRow_getD_toNat {y i : Nat} (hy : y < s.regs.hdrHeight.toNat) (hi : i < stride s.regs.hdrWidth.toNat) :
    ((prevRow s y).getD i 0).toNat =
      if 1 ≤ y then ((reconGrid s).read ((y - 1) * stride s.regs.hdrWidth.toNat + i)).toNat else 0 := by
  cases y with
  | zero => rw [prevRow_zero_getD]; rfl
  | succ y => rw [if_pos (Nat.le_add_left 1 y), Nat.add_sub_cancel, reconGrid_read_row hwf (Nat.lt_of_succ_lt hy) hi]

/-- The recurrence of the grid (R181 to R183): every neighbour is a byte of the grid. -/
theorem reconGrid_read {y i : Nat} (hy : y < s.regs.hdrHeight.toNat) (hi : i < stride s.regs.hdrWidth.toNat)
    (htag : (rowTag s y).toNat ≤ 4) :
    ((reconGrid s).read (y * stride s.regs.hdrWidth.toNat + i)).toNat =
      ((rawByte s y i).toNat
          + predictor (rowTag s y).toNat
              (if 4 ≤ i then ((reconGrid s).read (y * stride s.regs.hdrWidth.toNat + i - 4)).toNat else 0)
              (if 1 ≤ y then ((reconGrid s).read ((y - 1) * stride s.regs.hdrWidth.toNat + i)).toNat else 0)
              (if 1 ≤ y ∧ 4 ≤ i then ((reconGrid s).read ((y - 1) * stride s.regs.hdrWidth.toNat + i - 4)).toNat
                else 0))
        % 256 := by
  have hrow : ((prevRow s (y + 1)).getD i 0).toNat = _ :=
    reconBytes_toNat (tagPredictor_computes htag) (prevRow s y) (rawRow s y) (by rwa [rawRow_length])
  rw [reconGrid_read_row hwf hy hi, hrow, rawRow_getD s y hi, prevRow_getD_toNat hwf hy hi, ← prevRow]
  by_cases hfour : 4 ≤ i
  · have hback : i - 4 < stride s.regs.hdrWidth.toNat := by omega
    simp only [hfour, if_true, and_true, Nat.add_sub_assoc hfour, reconGrid_read_row hwf hy hback,
      prevRow_getD_toNat hwf hy hback]
  · simp only [hfour, if_false, and_false]

end Grid

/-- Settles O34: the rows are those of the stream, one turn each; what a turn takes from PREV the grid holds above. -/
theorem reconRebuildsTheGrid : Obligations.ReconRebuildsTheGrid := by
  intro s hready hwf hlen hgrid hstream htags S
  refine ⟨reconGrid s, exec_recon_legal hready hlen hgrid hstream htags, fun y i hy hi => ?_, fun a ha => ?_⟩
  · exact reconGrid_read hwf hy hi (htags y hy)
  · exact reconGrid_read_beyond hwf (by rwa [Nat.mul_comm] at ha)

end Sys2Proof.Machine
end

section
/-! PROOFS. 42_scanline_reconstructor.md R194: RECON of what PACK built gives the grid back. -/

namespace Sys2Proof.Machine

open Sys2Proof.Spec

/-! ### PACK within the capacities (44_chunk_writer_crc.md R241) -/

/-- RBUF after PACK. -/
def packedStream (s : State) : Buffer := s.rbuf.writeBytes 0 (packStream s.gdst s.regs.dw.toNat s.regs.dh.toNat)

theorem exec_pack_fits {s : State} (hready : s.ready = true)
    (hgrid : 4 * s.regs.dw.toNat * s.regs.dh.toNat ≤ s.cfg.gridCap.toNat)
    (hstream : streamLength s.regs.dw.toNat s.regs.dh.toNat ≤ s.cfg.rbufCap.toNat) :
    exec .pack s =
      .next
        { s with
          rbuf := packedStream s
          regs := { s.regs with rlen := BitVec.ofNat 32 (streamLength s.regs.dw.toNat s.regs.dh.toNat) }
          status := doneStatus s.status } := by
  have hbody : packBody (acceptCommand s) =
      { complete (acceptCommand s) with
        rbuf := packedStream s
        regs := { s.regs with rlen := BitVec.ofNat 32 (streamLength s.regs.dw.toNat s.regs.dh.toNat) } } :=
    (if_neg (Nat.not_lt.2 hgrid)).trans (if_neg (Nat.not_lt.2 hstream))
  rw [complete_acceptCommand hready] at hbody
  exact (operation_ready packBody hready).trans (congrArg Host.Outcome.next hbody)

section Stream

variable {s : State} (hwf : Memory.wf s.rbuf.cells = true) {y : Nat} (hy : y < s.regs.dh.toNat)

include hwf hy

/-- Byte j of row y of the packed stream, the tag being byte 0. -/
theorem packedStream_read {j : Nat} (hj : j < 1 + stride s.regs.dw.toNat) :
    (packedStream s).read (rowBase s.regs.dw.toNat y + j) = (packRow s.gdst s.regs.dw.toNat y).getD j 0 := by
  have hplace : rowBase s.regs.dw.toNat y + j < streamLength s.regs.dw.toNat s.regs.dh.toNat := row_place_lt hy hj
  rw [packedStream, Buffer.read_writeBytes _ _ _ _ hwf, packStream_length, if_pos (by omega), Nat.sub_zero]
  exact getD_flatMap_rows (packRow_length s.gdst _) hy hj

theorem packedStream_tag : (packedStream s).read (rowBase s.regs.dw.toNat y) = 0 :=
  packedStream_read hwf hy (j := 0) (by omega)

theorem packedStream_data {i : Nat} (hi : i < stride s.regs.dw.toNat) :
    (packedStream s).read (rowBase s.regs.dw.toNat y + 1 + i) = s.gdst.read (y * stride s.regs.dw.toNat + i) := by
  rw [Nat.add_assoc, Nat.add_comm 1 i, packedStream_read hwf hy (by omega), packRow, List.getD_cons_succ,
    Buffer.readBytes_getD _ _ _ _ hi]

end Stream

/-! ### The round trip -/

/-- The state in which RECON is started: PACK's, with the dimensions of GDST written to the header registers. -/
def State.packedForRecon (s : State) : State :=
  { s with
    rbuf := packedStream s
    regs :=
      { s.regs with
        rlen := BitVec.ofNat 32 (streamLength s.regs.dw.toNat s.regs.dh.toNat)
        hdrWidth := s.regs.dw
        hdrHeight := s.regs.dh }
    status := doneStatus s.status }

/-- Under the tag None the grid is the raw bytes (R184). -/
theorem reconGrid_read_none {s : State} {y i : Nat} (hwf : Memory.wf s.gsrc.cells = true)
    (hy : y < s.regs.hdrHeight.toNat) (hi : i < stride s.regs.hdrWidth.toNat) (htag : rowTag s y = 0) :
    (reconGrid s).read (y * stride s.regs.hdrWidth.toNat + i) = rawByte s y i := by
  have hread := reconGrid_read hwf hy hi (by rw [htag]; decide)
  rw [htag] at hread
  exact BitVec.eq_of_toNat_eq (hread.trans (Nat.mod_eq_of_lt (rawByte s y i).isLt))

/-- Settles O53: PACK writes the tag None before every row, under which RECON copies the row's bytes. -/
theorem packThenReconRestoresTheGrid : Obligations.PackThenReconRestoresTheGrid := by
  intro s W H hready hrbuf hgsrc hgrid hstream
  obtain ⟨hbusy, herr, hidle⟩ := (ready_iff s).1 hready
  have hrlen : s.packedForRecon.regs.rlen.toNat = streamLength W H :=
    (BitVec.toNat_ofNat ..).trans (Nat.mod_eq_of_lt (Nat.lt_of_le_of_lt hstream s.cfg.rbufCap.isLt))
  have hready' : s.packedForRecon.ready = true := (ready_iff _).2 ⟨hbusy, herr, hidle⟩
  have htag (y : Nat) (hy : y < H) : rowTag s.packedForRecon y = 0 := packedStream_tag hrbuf hy
  have hrecon := exec_recon_legal hready' (hrlen.trans_le hstream) hgrid hrlen.ge fun y hy => by
    rw [htag y hy]
    decide
  refine ⟨_, _, exec_pack_fits hready hgrid hstream, hrecon, herr, rfl, rfl, fun a ha => ?_⟩
  have hrows : a < 4 * W * H := ha
  have hpos : 0 < 4 * W := Nat.pos_of_mul_pos_right (Nat.zero_lt_of_lt hrows)
  have hy : a / (4 * W) < H := Nat.div_lt_of_lt_mul hrows
  have hi : a % (4 * W) < 4 * W := Nat.mod_lt a hpos
  calc (reconGrid s.packedForRecon).read a
    _ = (reconGrid s.packedForRecon).read (a / (4 * W) * (4 * W) + a % (4 * W)) := by rw [Nat.div_add_mod']
    _ = rawByte s.packedForRecon (a / (4 * W)) (a % (4 * W)) := reconGrid_read_none hgsrc hy hi (htag _ hy)
    _ = s.gdst.read (a / (4 * W) * (4 * W) + a % (4 * W)) := packedStream_data hrbuf hy hi
    _ = s.gdst.read a := by rw [Nat.div_add_mod']

end Sys2Proof.Machine
end

section
/-! PROOFS. 43_resampler.md R218, R219: the floor division, the rounding to a nearest integer, and the byte clamp. -/

namespace Sys2Proof.Machine

theorem fdiv_eq_iff {n d q : Int} (hd : 0 < d) : fdiv n d = q ↔ q * d ≤ n ∧ n < q * d + d := by
  rw [fdiv, Int.fdiv_eq_ediv_of_nonneg n hd.le, Int.ediv_eq_iff_of_pos hd]

/-- The remainder of the floor division lies in [0, d), also where the dividend is negative. -/
theorem fdiv_remainder (n : Int) {d : Int} (hd : 0 < d) : 0 ≤ n - fdiv n d * d ∧ n - fdiv n d * d < d := by
  obtain ⟨hle, hlt⟩ := (fdiv_eq_iff (n := n) hd).1 rfl
  omega

/-! ### round_tie (R218) -/

/-- The rounded quotient is within half of the quotient, under either tie rule. -/
theorem roundTie_error (tie : RoundTie) (num : Int) {den : Int} (hden : 0 < den) :
    2 * (num - roundTie tie num den * den) ≤ den ∧ -den ≤ 2 * (num - roundTie tie num den * den) := by
  obtain ⟨hnonneg, hlt⟩ := fdiv_remainder num hden
  have hup : (fdiv num den + 1) * den = fdiv num den * den + den := add_one_mul ..
  cases tie
  all_goals
    simp only [roundTie]
    split_ifs <;> omega

/-- Under HALF_UP the rounded quotient is never half below the quotient. -/
theorem roundTie_halfUp_error_lt (num : Int) {den : Int} (hden : 0 < den) :
    2 * (num - roundTie .halfUp num den * den) < den := by
  obtain ⟨hnonneg, hlt⟩ := fdiv_remainder num hden
  have hup : (fdiv num den + 1) * den = fdiv num den * den + den := add_one_mul ..
  simp only [roundTie]
  split_ifs <;> omega

theorem roundTie_halfUp_eq_fdiv (num : Int) {den : Int} (hden : 0 < den) :
    roundTie .halfUp num den = fdiv (2 * num + den) (2 * den) := by
  obtain ⟨-, hlower⟩ := roundTie_error .halfUp num hden
  have hupper := roundTie_halfUp_error_lt num hden
  have hdouble : roundTie .halfUp num den * (2 * den) = 2 * (roundTie .halfUp num den * den) := mul_left_comm ..
  exact ((fdiv_eq_iff (by omega)).2 (by omega)).symm

section Half

variable {num den q : Int} (hden : 0 < den) (hhalf : 2 * (num - q * den) = den)

include hden hhalf

theorem fdiv_of_half : fdiv num den = q := (fdiv_eq_iff hden).2 (by omega)

/-! On an exact half neither strict comparison of R218 holds, and the tie rule decides. -/

theorem roundTie_halfUp_of_half : roundTie .halfUp num den = q + 1 := by
  simp only [roundTie, fdiv_of_half hden hhalf]
  rw [if_neg (by omega), if_neg (by omega)]

theorem roundTie_halfEven_of_half : roundTie .halfEven num den = if q % 2 = 0 then q else q + 1 := by
  simp only [roundTie, fdiv_of_half hden hhalf]
  rw [if_neg (by omega), if_neg (by omega)]

end Half

/-- Settles O45: the error bounds of the rounding, and the tie rule on an exact half. -/
theorem roundingIsToNearest : Obligations.RoundingIsToNearest := by
  intro num den _ hden
  exact ⟨fun tie => roundTie_error tie num hden, roundTie_halfUp_eq_fdiv num hden, fun q hhalf =>
    ⟨roundTie_halfUp_of_half hden hhalf, roundTie_halfEven_of_half hden hhalf⟩⟩

/-- Rounding a quotient between two integers stays between them: no integer lies within half of the quotient but beyond
one of them. -/
theorem roundTie_mem_Icc (tie : RoundTie) {num den a b : Int} (hden : 0 < den)
    (h : num ∈ Set.Icc (a * den) (b * den)) : roundTie tie num den ∈ Set.Icc a b := by
  obtain ⟨hlow, hhigh⟩ := h
  obtain ⟨hupper, hlower⟩ := roundTie_error tie num hden
  have hbelow : a * den < (roundTie tie num den + 1) * den := by
    rw [add_one_mul]
    omega
  have habove : roundTie tie num den * den < (b + 1) * den := by
    rw [add_one_mul]
    omega
  exact ⟨Int.le_of_lt_add_one (lt_of_mul_lt_mul_right hbelow hden.le),
    Int.le_of_lt_add_one (lt_of_mul_lt_mul_right habove hden.le)⟩

theorem roundTie_mul (tie : RoundTie) (v : Int) {den : Int} (hden : 0 < den) : roundTie tie (v * den) den = v := by
  obtain ⟨hlow, hhigh⟩ := roundTie_mem_Icc tie hden ⟨le_refl (v * den), le_refl (v * den)⟩
  exact le_antisymm hhigh hlow

/-! ### The byte clamp (R219) -/

theorem clampByte_of_mem_Icc {v : Int} (h : v ∈ Set.Icc 0 255) : ((clampByte v).toNat : Int) = v := by
  obtain ⟨hlow, hhigh⟩ := h
  rw [clampByte, max_eq_left hlow, min_eq_left hhigh, BitVec.toNat_ofNat]
  omega

theorem byte_mem_Icc (b : Byte) : (b.toNat : Int) ∈ Set.Icc 0 255 := ⟨by omega, by omega⟩

theorem clampByte_toNat (b : Byte) : clampByte b.toNat = b :=
  BitVec.eq_of_toNat_eq (Int.ofNat_inj.1 (clampByte_of_mem_Icc (byte_mem_Icc b)))

end Sys2Proof.Machine
end

section
/-! PROOFS. 43_resampler.md R214 to R217, R220, R221: the mapping of one axis and the blend of four samples. -/

namespace Sys2Proof.Machine

/-! ### One axis (R214 to R216, R220) -/

section Axis

variable (size target t : Nat)

theorem axis_d : (axis size target t).d = 2 * (target : Int) := rfl

theorem axis_f :
    (axis size target t).f =
      axisNumerator size target t - fdiv (axisNumerator size target t) (axis size target t).d * (axis size target t).d :=
  rfl

theorem axis_i0 : (axis size target t).i0 = max (fdiv (axisNumerator size target t) (axis size target t).d) 0 := rfl

theorem axis_i1 :
    (axis size target t).i1 = min (fdiv (axisNumerator size target t) (axis size target t).d + 1) ((size : Int) - 1) :=
  rfl

end Axis

section Axis

variable {size target t : Nat} (hsize : 0 < size) (ht : t < target)

include ht

theorem axisNumerator_bounds :
    (size : Int) - target ≤ axisNumerator size target t ∧
      axisNumerator size target t ≤ (2 * (target : Int) - 1) * size - target := by
  have hlow : (1 : Int) * size ≤ (2 * (t : Int) + 1) * size := Int.mul_le_mul_of_nonneg_right (by omega) (by omega)
  have hhigh : (2 * (t : Int) + 1) * size ≤ (2 * (target : Int) - 1) * size :=
    Int.mul_le_mul_of_nonneg_right (by omega) (by omega)
  rw [axisNumerator]
  omega

theorem axis_d_pos : 0 < (axis size target t).d := by
  rw [axis_d]
  omega

theorem axis_f_bounds : 0 ≤ (axis size target t).f ∧ (axis size target t).f < (axis size target t).d :=
  fdiv_remainder _ (axis_d_pos (size := size) ht)

include hsize

/-- The floor before the clamps: −1 where the target is finer than the source and the index is at the edge. -/
theorem axis_floor_bounds :
    -1 ≤ fdiv (axisNumerator size target t) (axis size target t).d ∧
      fdiv (axisNumerator size target t) (axis size target t).d ≤ (size : Int) - 1 := by
  have hd : 0 < 2 * (target : Int) := axis_d_pos (size := size) ht
  obtain ⟨hlow, hhigh⟩ := axisNumerator_bounds (size := size) ht
  rw [sub_one_mul, mul_comm (2 * (target : Int))] at hhigh
  rw [axis_d, fdiv, Int.fdiv_eq_ediv_of_nonneg _ hd.le]
  exact ⟨(Int.le_ediv_iff_mul_le hd).2 (by omega), Int.le_sub_one_of_lt ((Int.ediv_lt_iff_lt_mul hd).2 (by omega))⟩

theorem axis_indexes_inside :
    0 ≤ (axis size target t).i0 ∧ (axis size target t).i0 ≤ (size : Int) - 1 ∧
      0 ≤ (axis size target t).i1 ∧ (axis size target t).i1 ≤ (size : Int) - 1 := by
  obtain ⟨hlow, hhigh⟩ := axis_floor_bounds hsize ht
  rw [axis_i0, axis_i1]
  omega

end Axis

/-- Settles O42: the numerator's range divided by D, and the two clamps. -/
theorem resampleIndexesStayInside : Obligations.ResampleIndexesStayInside := by
  intro size target t hsize ht n a
  obtain ⟨hn, hn'⟩ := axisNumerator_bounds (size := size) ht
  obtain ⟨hu, hu'⟩ := axis_floor_bounds hsize ht
  obtain ⟨h0, h0', h1, h1'⟩ := axis_indexes_inside hsize ht
  exact ⟨hn, hn', hu, hu', h0, h0', h1, h1', axis_f_bounds ht⟩

/-- A target of the source's own size maps every index to itself with weight 0 (R212). -/
theorem axis_same_size {size t : Nat} (ht : t < size) :
    (axis size size t).i0 = t ∧ (axis size size t).f = 0 := by
  have hd := axis_d_pos (size := size) ht
  have hnum : axisNumerator size size t = t * (axis size size t).d := by
    rw [axisNumerator, axis_d]
    ring
  have hfloor : fdiv (axisNumerator size size t) (axis size size t).d = t :=
    (fdiv_eq_iff hd).2 ⟨hnum.ge, hnum.trans_lt (lt_add_of_pos_right _ hd)⟩
  constructor
  · rw [axis_i0, hfloor, max_eq_left (Int.natCast_nonneg t)]
  · rw [axis_f, hfloor, hnum, sub_self]

/-! ### The blend (R217, R220, R221) -/

/-- A weighted sum of two numbers with weights d − f and f lies between d times any bounds of theirs. -/
theorem lerp_mem_Icc {p q a b f d : Int} (hp : p ∈ Set.Icc a b) (hq : q ∈ Set.Icc a b) (hf : 0 ≤ f) (hfd : f ≤ d) :
    p * (d - f) + q * f ∈ Set.Icc (a * d) (b * d) := by
  have hsplit (v : Int) : v * d = v * (d - f) + v * f := by ring
  have hdf : 0 ≤ d - f := sub_nonneg.2 hfd
  rw [hsplit a, hsplit b]
  exact ⟨add_le_add (mul_le_mul_of_nonneg_right hp.1 hdf) (mul_le_mul_of_nonneg_right hq.1 hf),
    add_le_add (mul_le_mul_of_nonneg_right hp.2 hdf) (mul_le_mul_of_nonneg_right hq.2 hf)⟩

section Blend

variable {sw sh dw dh x y : Nat} (hx : x < dw) (hy : y < dh)

include hx hy

theorem blend_mem_Icc {p00 p10 p01 p11 a b : Int} (h00 : p00 ∈ Set.Icc a b) (h10 : p10 ∈ Set.Icc a b)
    (h01 : p01 ∈ Set.Icc a b) (h11 : p11 ∈ Set.Icc a b) :
    blend (axis sw dw x) (axis sh dh y) p00 p10 p01 p11 ∈
      Set.Icc (a * ((axis sw dw x).d * (axis sh dh y).d)) (b * ((axis sw dw x).d * (axis sh dh y).d)) := by
  obtain ⟨hfx, hfx'⟩ := axis_f_bounds (size := sw) hx
  obtain ⟨hfy, hfy'⟩ := axis_f_bounds (size := sh) hy
  rw [← mul_assoc, ← mul_assoc]
  exact lerp_mem_Icc (lerp_mem_Icc h00 h10 hfx hfx'.le) (lerp_mem_Icc h01 h11 hfx hfx'.le) hfy hfy'.le

/-- The rounded blend lies between any bounds of the four samples, under either tie rule (R221). -/
theorem roundTie_blend_mem_Icc (tie : RoundTie) {p00 p10 p01 p11 a b : Int} (h00 : p00 ∈ Set.Icc a b)
    (h10 : p10 ∈ Set.Icc a b) (h01 : p01 ∈ Set.Icc a b) (h11 : p11 ∈ Set.Icc a b) :
    roundTie tie (blend (axis sw dw x) (axis sh dh y) p00 p10 p01 p11) ((axis sw dw x).d * (axis sh dh y).d) ∈
      Set.Icc a b :=
  roundTie_mem_Icc tie (mul_pos (axis_d_pos hx) (axis_d_pos hy)) (blend_mem_Icc hx hy h00 h10 h01 h11)

end Blend

/-- Settles O43: the four bytes lie in [0, 255], and so does their rounded blend. -/
theorem blendNeverNeedsTheClamp : Obligations.BlendNeverNeedsTheClamp := by
  intro tie sw sh dw dh x y p00 p10 p01 p11 _ _ hx hy ax ay v
  have hv : v ∈ Set.Icc 0 255 :=
    roundTie_blend_mem_Icc hx hy tie (byte_mem_Icc p00) (byte_mem_Icc p10) (byte_mem_Icc p01) (byte_mem_Icc p11)
  exact ⟨hv.1, hv.2, clampByte_of_mem_Icc hv⟩

end Sys2Proof.Machine
end

section
/-! PROOFS. 43_resampler.md R212, R221, R225: one resampled byte, from the samples inside the source grid. -/

namespace Sys2Proof.Machine

/-- Byte c of pixel (x, y) lies inside the grid (00_scope.md R13). -/
theorem pixelOffset_lt {w h x y c : Nat} (hx : x < w) (hy : y < h) (hc : c < 4) : pixelOffset w x y c < 4 * w * h := by
  have hplace := row_place_lt (row_place_lt hy hx) hc
  rwa [mul_comm (h * w), mul_comm h, ← mul_assoc] at hplace

theorem axis_toNat_lt {size target t : Nat} (hsize : 0 < size) (ht : t < target) :
    (axis size target t).i0.toNat < size ∧ (axis size target t).i1.toNat < size := by
  have hinside := axis_indexes_inside hsize ht
  omega

section Samples

variable {sw sh dw dh x y c : Nat} (hsw : 0 < sw) (hsh : 0 < sh) (hx : x < dw) (hy : y < dh)

include hsw hsh hx hy

/-- A resampled byte depends only on the source's bytes of its channel (R220: every sample is inside the source). -/
theorem resampled_congr (tie : RoundTie) {src src' : Buffer}
    (h : ∀ i j, i < sw → j < sh → src'.read (pixelOffset sw i j c) = src.read (pixelOffset sw i j c)) :
    resampled tie src' sw sh dw dh x y c = resampled tie src sw sh dw dh x y c := by
  obtain ⟨hx0, hx1⟩ := axis_toNat_lt hsw hx
  obtain ⟨hy0, hy1⟩ := axis_toNat_lt hsh hy
  simp only [resampled, sourceSample, h _ _ hx0 hy0, h _ _ hx1 hy0, h _ _ hx0 hy1, h _ _ hx1 hy1]

theorem resampled_of_constant (tie : RoundTie) {src : Buffer} {v : Byte}
    (h : ∀ i j, i < sw → j < sh → src.read (pixelOffset sw i j c) = v) :
    resampled tie src sw sh dw dh x y c = v := by
  obtain ⟨hx0, hx1⟩ := axis_toNat_lt hsw hx
  obtain ⟨hy0, hy1⟩ := axis_toNat_lt hsh hy
  have hv : (v.toNat : Int) ∈ Set.Icc (v.toNat : Int) v.toNat := ⟨le_rfl, le_rfl⟩
  obtain ⟨hlow, hhigh⟩ := roundTie_blend_mem_Icc (sw := sw) (sh := sh) hx hy tie hv hv hv hv
  simp only [resampled, sourceSample, h _ _ hx0 hy0, h _ _ hx1 hy0, h _ _ hx0 hy1, h _ _ hx1 hy1]
  rw [le_antisymm hhigh hlow, clampByte_toNat]

end Samples

/-- Settles O44: the rounded blend lies between the least and the greatest of the four samples, which are all v. -/
theorem constantChannelStaysConstant : Obligations.ConstantChannelStaysConstant := by
  intro tie src sw sh dw dh c v hsw hsh _ hconst x y hx hy
  exact resampled_of_constant hsw hsh hx hy tie hconst

theorem blend_of_weights_zero {ax ay : Axis} (hx : ax.f = 0) (hy : ay.f = 0) (p00 p10 p01 p11 : Int) :
    blend ax ay p00 p10 p01 p11 = p00 * (ax.d * ay.d) := by
  simp [blend, hx, hy, mul_assoc]

/-- The general formula at the source's own dimensions gives the source's byte (R212). -/
theorem resampled_same_size (tie : RoundTie) (src : Buffer) {sw sh x y : Nat} (c : Nat) (hx : x < sw) (hy : y < sh) :
    resampled tie src sw sh sw sh x y c = src.read (pixelOffset sw x y c) := by
  obtain ⟨hx0, hfx⟩ := axis_same_size hx
  obtain ⟨hy0, hfy⟩ := axis_same_size hy
  simp only [resampled, blend_of_weights_zero hfx hfy, roundTie_mul _ _ (mul_pos (axis_d_pos hx) (axis_d_pos hy))]
  rw [sourceSample, hx0, hy0, Int.toNat_natCast, Int.toNat_natCast, clampByte_toNat]

end Sys2Proof.Machine
end

section
/-! PROOFS. 43_resampler.md R211 to R213, R225: RESIZE, its operand checks and its grid. -/

namespace Sys2Proof.Machine

open Sys2Proof.Spec

/-! ### The operand checks (R213) -/

theorem exec_resize_ready {s : State} (h : s.ready = true) : exec .resize s = .next (resizeBody (acceptCommand s)) :=
  operation_ready resizeBody h

/-- A sum of four fail bits has each condition as its own bit: none carries into another. -/
theorem fourFailBits_testBit : ∀ a b c d : Bool,
    let m := failBit a 1 + failBit b 2 + failBit c 4 + failBit d 8
    m < 16 ∧ m.testBit 0 = a ∧ m.testBit 1 = b ∧ m.testBit 2 = c ∧ m.testBit 3 = d := by
  decide

theorem resizeMask_testBit (s : State) :
    resizeMask s < 16 ∧ ((resizeMask s).testBit 0 = true ↔ s.regs.sw.toNat = 0) ∧
      ((resizeMask s).testBit 1 = true ↔ s.regs.sh.toNat = 0) ∧
      ((resizeMask s).testBit 2 = true ↔ s.regs.tw.toNat = 0) ∧
      ((resizeMask s).testBit 3 = true ↔ s.regs.th.toNat = 0) := by
  obtain ⟨hlt, h0, h1, h2, h3⟩ := fourFailBits_testBit (s.regs.sw.toNat == 0) (s.regs.sh.toNat == 0)
    (s.regs.tw.toNat == 0) (s.regs.th.toNat == 0)
  simp only [resizeMask, zeroMask, h0, h1, h2, h3, hlt, beq_iff_eq, and_self]

theorem resizeMask_eq_zero_iff (s : State) :
    resizeMask s = 0 ↔
      0 < s.regs.sw.toNat ∧ 0 < s.regs.sh.toNat ∧ 0 < s.regs.tw.toNat ∧ 0 < s.regs.th.toNat := by
  simp [resizeMask, zeroMask, failBit_eq_zero_iff, and_assoc, Nat.pos_iff_ne_zero]

theorem resizeBody_zero {s : State} (h : resizeMask s ≠ 0) :
    resizeBody s = raiseError .resize .param 0 (resizeMask s) s :=
  if_pos h

section Checks

variable {s : State} (hmask : resizeMask s = 0)

include hmask

theorem resizeBody_sourceBeyondCap (h : s.cfg.gridCap.toNat < 4 * s.regs.sw.toNat * s.regs.sh.toNat) :
    resizeBody s = raiseError .resize .capacity 0 0 s := by
  rw [resizeBody, if_neg (not_not.2 hmask), if_pos h]

variable (hsource : 4 * s.regs.sw.toNat * s.regs.sh.toNat ≤ s.cfg.gridCap.toNat)

include hsource

theorem resizeBody_targetBeyondCap (h : s.cfg.gridCap.toNat < 4 * s.regs.tw.toNat * s.regs.th.toNat) :
    resizeBody s = raiseError .resize .capacity 0 1 s := by
  rw [resizeBody, if_neg (not_not.2 hmask), if_neg (Nat.not_lt.2 hsource), if_pos h]

end Checks

/-- Settles O41: one lemma for each check, reached where those before it pass. -/
theorem resizeChecksItsOperands : Obligations.ResizeChecksItsOperands := by
  intro s sw sh dw dh hready
  rw [exec_resize_ready hready]
  constructor
  · intro hzero
    have hmask : resizeMask (acceptCommand s) ≠ 0 := fun h => by
      have hpos := (resizeMask_eq_zero_iff s).1 h
      omega
    exact ⟨_, _, rfl, resizeBody_zero hmask ▸ raiseError_records .resize .param 0 _ 9 _ rfl, resizeMask_testBit s⟩
  · intro hsw hsh hdw hdh
    have hmask : resizeMask (acceptCommand s) = 0 := (resizeMask_eq_zero_iff s).2 ⟨hsw, hsh, hdw, hdh⟩
    constructor
    · intro hbig
      exact ⟨_, rfl, resizeBody_sourceBeyondCap hmask hbig ▸ raiseError_records .resize .capacity 0 0 8 _ rfl⟩
    · intro hfits hbig
      exact ⟨_, rfl, resizeBody_targetBeyondCap hmask hfits hbig ▸ raiseError_records .resize .capacity 0 1 8 _ rfl⟩

/-! ### The normal end (R211) -/

/-- The operands pass every check of R213. -/
structure State.ResizeFits (s : State) : Prop where
  sw_pos : 0 < s.regs.sw.toNat
  sh_pos : 0 < s.regs.sh.toNat
  tw_pos : 0 < s.regs.tw.toNat
  th_pos : 0 < s.regs.th.toNat
  source : 4 * s.regs.sw.toNat * s.regs.sh.toNat ≤ s.cfg.gridCap.toNat
  target : 4 * s.regs.tw.toNat * s.regs.th.toNat ≤ s.cfg.gridCap.toNat

/-- GDST after RESIZE. -/
def resizedGrid (s : State) : Buffer :=
  s.gdst.writeBytes 0
    (resizedBytes s.cfg.roundTie s.gsrc s.regs.sw.toNat s.regs.sh.toNat s.regs.tw.toNat s.regs.th.toNat)

/-- `s` after RESIZE has ended without error. -/
def State.resized (s : State) : State :=
  { s with
    gdst := resizedGrid s
    regs := { s.regs with dw := s.regs.tw, dh := s.regs.th }
    status := doneStatus s.status }

@[simp] theorem resized_gdst (s : State) : s.resized.gdst = resizedGrid s := rfl

theorem exec_resize_fits {s : State} (hready : s.ready = true) (h : s.ResizeFits) :
    exec .resize s = .next s.resized := by
  have hmask : resizeMask s = 0 := (resizeMask_eq_zero_iff s).2 ⟨h.sw_pos, h.sh_pos, h.tw_pos, h.th_pos⟩
  have hbody : resizeBody (acceptCommand s) =
      { complete (acceptCommand s) with
        gdst := resizedGrid s
        regs := { s.regs with dw := s.regs.tw, dh := s.regs.th } } :=
    (if_neg (not_not.2 hmask)).trans ((if_neg (Nat.not_lt.2 h.source)).trans (if_neg (Nat.not_lt.2 h.target)))
  rw [complete_acceptCommand hready] at hbody
  exact (exec_resize_ready hready).trans (congrArg Host.Outcome.next hbody)

/-- Where one of the checks fails RESIZE records an error. -/
theorem resizeFits_of_err_false {s : State} (h : (resizeBody s).status.err = false) : s.ResizeFits := by
  rcases ne_or_eq (resizeMask s) 0 with hmask | hmask
  · rw [resizeBody_zero hmask] at h
    cases h
  rcases Nat.lt_or_ge s.cfg.gridCap.toNat (4 * s.regs.sw.toNat * s.regs.sh.toNat) with hbig | hsource
  · rw [resizeBody_sourceBeyondCap hmask hbig] at h
    cases h
  rcases Nat.lt_or_ge s.cfg.gridCap.toNat (4 * s.regs.tw.toNat * s.regs.th.toNat) with hbig | htarget
  · rw [resizeBody_targetBeyondCap hmask hsource hbig] at h
    cases h
  obtain ⟨hsw, hsh, htw, hth⟩ := (resizeMask_eq_zero_iff s).1 hmask
  exact ⟨hsw, hsh, htw, hth, hsource, htarget⟩

theorem exec_resize_err_false {s t : State} (hready : s.ready = true) (h : exec .resize s = .next t)
    (herr : t.status.err = false) : s.ResizeFits ∧ t = s.resized := by
  obtain rfl : resizeBody (acceptCommand s) = t := Host.Outcome.next.inj ((exec_resize_ready hready).symm.trans h)
  have hfits : s.ResizeFits := { resizeFits_of_err_false herr with }
  exact ⟨hfits, Host.Outcome.next.inj (h.symm.trans (exec_resize_fits hready hfits))⟩

/-! ### The grid -/

section Grid

variable {s : State} (hwf : Memory.wf s.gdst.cells = true)

include hwf

theorem resizedGrid_read {a : Nat} (ha : a < 4 * s.regs.tw.toNat * s.regs.th.toNat) :
    (resizedGrid s).read a =
      (resizedBytes s.cfg.roundTie s.gsrc s.regs.sw.toNat s.regs.sh.toNat s.regs.tw.toNat s.regs.th.toNat).getD a 0 := by
  rw [resizedGrid, Buffer.read_writeBytes _ _ _ _ hwf, resizedBytes_length, if_pos (by omega), Nat.sub_zero]

theorem resizedGrid_read_beyond {a : Nat} (ha : 4 * s.regs.tw.toNat * s.regs.th.toNat ≤ a) :
    (resizedGrid s).read a = s.gdst.read a := by
  rw [resizedGrid, Buffer.read_writeBytes _ _ _ _ hwf, resizedBytes_length, if_neg (by omega)]

end Grid

theorem resizedBytes_same_size (tie : RoundTie) (src : Buffer) (sw sh : Nat) :
    resizedBytes tie src sw sh sw sh = src.readBytes 0 (4 * sw * sh) := if_pos ⟨rfl, rfl⟩

theorem resizedBytes_other_size {sw sh dw dh : Nat} (h : ¬(dw = sw ∧ dh = sh)) (tie : RoundTie) (src : Buffer) :
    resizedBytes tie src sw sh dw dh = resampledGrid tie src sw sh dw dh := if_neg h

theorem resampledGrid_getD (tie : RoundTie) (src : Buffer) (sw sh : Nat) {dw dh x y c : Nat} (hx : x < dw) (hy : y < dh)
    (hc : c < 4) :
    (resampledGrid tie src sw sh dw dh).getD (pixelOffset dw x y c) 0 = resampled tie src sw sh dw dh x y c := by
  have hpixel : pixelOffset dw x y c / 4 = y * dw + x := by rw [pixelOffset]; omega
  have hchannel : pixelOffset dw x y c % 4 = c := by rw [pixelOffset]; omega
  have hdw : 0 < dw := Nat.zero_lt_of_lt hx
  have hcolumn : (y * dw + x) % dw = x := Nat.mul_add_mod_of_lt hx
  have hrow : (y * dw + x) / dw = y := by
    rw [mul_comm, Nat.mul_add_div hdw, Nat.div_eq_of_lt hx, add_zero]
  have hplace := pixelOffset_lt hx hy hc
  simp [resampledGrid, List.getD, hplace, hpixel, hchannel, hcolumn, hrow]

/-- `blended` is the model's formula with the source's bytes as a function of the pixel (R214 to R219). -/
theorem resampled_eq_blended (tie : RoundTie) (src : Buffer) (sw sh dw dh x y c : Nat) :
    resampled tie src sw sh dw dh x y c =
      blended tie (fun i j => ((src.read ((j * sw + i) * 4 + c)).toNat : Int)) sw sh dw dh x y := rfl

/-- Settles O39: the bytes written are those of the general path, pixel by pixel. -/
theorem resizeBlendsFourSamples : Obligations.ResizeBlendsFourSamples := by
  intro s sw sh dw dh hready hwf hsw hsh hdw hdh hsource htarget hother
  refine ⟨resizedGrid s, exec_resize_fits hready ⟨hsw, hsh, hdw, hdh, hsource, htarget⟩, fun x y c hx hy hc => ?_,
    fun a ha => resizedGrid_read_beyond hwf ha⟩
  calc (resizedGrid s).read (pixelOffset dw x y c)
    _ = (resizedBytes s.cfg.roundTie s.gsrc sw sh dw dh).getD (pixelOffset dw x y c) 0 :=
      resizedGrid_read hwf (pixelOffset_lt hx hy hc)
    _ = resampled s.cfg.roundTie s.gsrc sw sh dw dh x y c := by
      rw [resizedBytes_other_size hother, resampledGrid_getD _ _ _ _ hx hy hc]
    _ = _ := resampled_eq_blended ..

/-- Settles O40: the bytes written are those read, and the weights of the general path are 0. -/
theorem identityResizeCopies : Obligations.IdentityResizeCopies := by
  constructor
  · intro s sw sh hready hwf hsw hsh htw hth hcap
    have hfits : s.ResizeFits :=
      ⟨hsw, hsh, by rwa [htw], by rwa [hth], hcap, by rwa [htw, hth]⟩
    have hread {a : Nat} (ha : a < 4 * sw * sh) : (resizedGrid s).read a = s.gsrc.read a := by
      rw [resizedGrid_read hwf (by rwa [htw, hth]), htw, hth, resizedBytes_same_size, Buffer.readBytes_getD _ _ _ _ ha,
        Nat.zero_add]
    have hend := exec_resize_fits hready hfits
    rw [State.resized, htw, hth] at hend
    exact ⟨resizedGrid s, hend, fun a ha => hread ha, fun a ha => resizedGrid_read_beyond hwf (by rwa [htw, hth])⟩
  · intro tie src sw sh x y c hx hy _
    exact resampled_same_size tie src c hx hy

/-! ### The result depends only on the operands (R225) -/

/-- The bytes written depend only on the source grid: a copy reads no other byte, and every sample is inside it. -/
theorem resizedBytes_congr (tie : RoundTie) {src src' : Buffer} {sw sh dw dh : Nat} (hsw : 0 < sw) (hsh : 0 < sh)
    (h : ∀ a, a < 4 * sw * sh → src'.read a = src.read a) :
    resizedBytes tie src' sw sh dw dh = resizedBytes tie src sw sh dw dh := by
  by_cases hsame : dw = sw ∧ dh = sh
  · obtain ⟨rfl, rfl⟩ := hsame
    rw [resizedBytes_same_size, resizedBytes_same_size]
    exact Buffer.readBytes_congr _ _ _ _ fun k _ hk => h k (by omega)
  · rw [resizedBytes_other_size hsame, resizedBytes_other_size hsame]
    refine List.map_congr_left fun k hk => ?_
    have hk' : k < 4 * dw * dh := List.mem_range.1 hk
    have hpixel : k / 4 < dw * dh := Nat.div_lt_of_lt_mul (by rwa [← mul_assoc])
    have hdw : 0 < dw := Nat.pos_of_mul_pos_right (Nat.zero_lt_of_lt hpixel)
    exact resampled_congr hsw hsh (Nat.mod_lt _ hdw) (Nat.div_lt_of_lt_mul hpixel) tie fun i j hi hj =>
      h _ (pixelOffset_lt hi hj (Nat.mod_lt k (by decide)))

/-- Settles O46: a run without error ends in the one normal state, whose target grid is written from the operands. -/
theorem resizeDependsOnlyOnItsOperands : Obligations.ResizeDependsOnlyOnItsOperands := by
  intro s u t v hs hu hswf huwf hsw hsh htw hth htie hsrc ht hv hterr hverr
  obtain ⟨hfits, rfl⟩ := exec_resize_err_false hs ht hterr
  obtain ⟨-, rfl⟩ := exec_resize_err_false hu hv hverr
  refine ⟨htw, hth, fun a ha => ?_⟩
  have hau : a < 4 * u.regs.tw.toNat * u.regs.th.toNat := by rwa [htw, hth]
  rw [resized_gdst, resized_gdst, resizedGrid_read hswf ha, resizedGrid_read huwf hau, htie, hsw, hsh, htw, hth,
    resizedBytes_congr _ hfits.sw_pos hfits.sh_pos hsrc]

end Sys2Proof.Machine
end

section
/-! PROOFS. 44_chunk_writer_crc.md R248 to R250: the checksum, its table form, and the command CRC. -/

namespace Sys2Proof.Machine

open Sys2Proof.Spec

/-! ### The checksum (R248) -/

theorem crc32_nil : crc32 [] = 0 := by decide

/-- Settles O50: the four strings by evaluation. -/
theorem checksumCheckValues : Obligations.ChecksumCheckValues := by
  unfold Obligations.ChecksumCheckValues
  decide +kernel

/-! ### The table form (R249): the inner step is linear over xor, and eight of them shift out a zero low byte -/

theorem crcShift_xor (x y : Word) : crcShift (x ^^^ y) = crcShift x ^^^ crcShift y := by
  simp only [crcShift, BitVec.getLsbD_xor, BitVec.ushiftRight_xor_distrib]
  cases x.getLsbD 0 <;> cases y.getLsbD 0
  · rfl
  · exact BitVec.xor_assoc ..
  · change x >>> 1 ^^^ y >>> 1 ^^^ (0xEDB88320 : Word) = (x >>> 1 ^^^ (0xEDB88320 : Word)) ^^^ y >>> 1
    ac_rfl
  · change x >>> 1 ^^^ y >>> 1 = (x >>> 1 ^^^ (0xEDB88320 : Word)) ^^^ (y >>> 1 ^^^ (0xEDB88320 : Word))
    rw [BitVec.xor_comm (y >>> 1), ← BitVec.xor_assoc, BitVec.xor_assoc (x >>> 1), BitVec.xor_self, BitVec.xor_zero]

theorem crcShift_iterate_xor (n : Nat) (x y : Word) : crcShift^[n] (x ^^^ y) = crcShift^[n] x ^^^ crcShift^[n] y :=
  Function.Semiconj₂.iterate crcShift_xor n x y

theorem crcShift_iterate_of_low_zero (n : Nat) {x : Word} (h : ∀ i, i < n → x.getLsbD i = false) :
    crcShift^[n] x = x >>> n := by
  induction n generalizing x with
  | zero => rfl
  | succ n ih =>
    have hshift : crcShift x = x >>> 1 := by rw [crcShift, h 0 (Nat.succ_pos n), if_neg Bool.false_ne_true]
    have hlow (i : Nat) (hi : i < n) : (x >>> 1).getLsbD i = false := by
      rw [BitVec.getLsbD_ushiftRight, h _ (by omega)]
    rw [Function.iterate_succ_apply, hshift, ih hlow, ← BitVec.shiftRight_add, Nat.add_comm]

theorem crcStep_eq_iterate (c : Word) (b : Byte) : crcStep c b = crcShift^[8] (c ^^^ b.setWidth 32) := rfl

theorem crcTable_eq_iterate (m : Byte) : crcTable m = crcShift^[8] (m.setWidth 32) := rfl

/-- A byte has nothing above its 8 bits. -/
theorem byte_setWidth_shiftRight (b : Byte) : (b.setWidth 32 : Word) >>> 8 = 0#32 := by
  ext i hi
  simp

/-- A word is its low byte, which the table maps, xor a rest whose low byte is zero. -/
theorem crcShift_iterate_eight (x : Word) : crcShift^[8] x = crcTable (x.setWidth 8) ^^^ x >>> 8 := by
  have hrest (i : Nat) (hi : i < 8) : ((x.setWidth 8).setWidth 32 ^^^ x).getLsbD i = false := by
    have hword : i < 32 := by omega
    simp [hi, hword]
  calc crcShift^[8] x
    _ = crcShift^[8] ((x.setWidth 8).setWidth 32 ^^^ ((x.setWidth 8).setWidth 32 ^^^ x)) := by
      rw [← BitVec.xor_assoc, BitVec.xor_self, BitVec.zero_xor]
    _ = crcTable (x.setWidth 8) ^^^ ((x.setWidth 8).setWidth 32 ^^^ x) >>> 8 := by
      rw [crcShift_iterate_xor, crcShift_iterate_of_low_zero 8 hrest, crcTable_eq_iterate]
    _ = crcTable (x.setWidth 8) ^^^ x >>> 8 := by
      rw [BitVec.ushiftRight_xor_distrib, byte_setWidth_shiftRight, BitVec.zero_xor]

/-- Settles O51: the eight inner steps in table form; the byte xored in does not reach above the low byte. -/
theorem checksumTableForm : Obligations.ChecksumTableForm := by
  refine ⟨fun c b => ?_, by decide⟩
  rw [crcStep_eq_iterate, crcShift_iterate_eight, BitVec.ushiftRight_xor_distrib, byte_setWidth_shiftRight,
    BitVec.xor_zero]

/-! ### The command CRC (R250) -/

theorem exec_crc_ready {s : State} (h : s.ready = true) : exec .crc s = .next (crcBody (acceptCommand s)) :=
  operation_ready crcBody h

theorem crcBody_fileBeyondCap {s : State} (h : s.cfg.fbufCap.toNat < s.regs.flen.toNat) :
    crcBody s = raiseError .crc .param 0 0 s :=
  if_pos h

section Checks

variable {s : State} (hflen : s.regs.flen.toNat ≤ s.cfg.fbufCap.toNat)

include hflen

theorem crcBody_rangeBeyondFile (h : s.regs.flen.toNat < s.regs.coff.toNat + s.regs.clen.toNat) :
    crcBody s = raiseError .crc .param 0 1 s := by
  rw [crcBody, if_neg (Nat.not_lt.2 hflen), if_pos h]

theorem exec_crc_fits (hready : s.ready = true) (hrange : s.regs.coff.toNat + s.regs.clen.toNat ≤ s.regs.flen.toNat) :
    exec .crc s =
      .next
        { s with
          regs := { s.regs with crcVal := crc32 (s.fbuf.readBytes s.regs.coff.toNat s.regs.clen.toNat) }
          status := doneStatus s.status } := by
  have hbody : crcBody (acceptCommand s) =
      { complete (acceptCommand s) with
        regs := { s.regs with crcVal := crc32 (s.fbuf.readBytes s.regs.coff.toNat s.regs.clen.toNat) } } :=
    (if_neg (Nat.not_lt.2 hflen)).trans (if_neg (Nat.not_lt.2 hrange))
  rw [complete_acceptCommand hready] at hbody
  exact (exec_crc_ready hready).trans (congrArg Host.Outcome.next hbody)

end Checks

/-- Settles O49: one lemma for each check and one for the normal end; the empty range is the empty string. -/
theorem crcCommandChecksumsARange : Obligations.CrcCommandChecksumsARange := by
  refine ⟨rfl, fun s hready => ⟨fun hlong => ?_, fun hflen hbig => ?_, fun hflen hrange => ?_⟩⟩
  · exact ⟨_, exec_crc_ready hready,
      crcBody_fileBeyondCap (s := acceptCommand s) hlong ▸ raiseError_records .crc .param 0 0 9 _ rfl⟩
  · exact ⟨_, exec_crc_ready hready,
      crcBody_rangeBeyondFile (s := acceptCommand s) hflen hbig ▸ raiseError_records .crc .param 0 1 9 _ rfl⟩
  · refine ⟨_, exec_crc_fits hflen hready hrange, rfl, fun hempty => ?_⟩
    rw [hempty]
    exact crc32_nil

end Sys2Proof.Machine
end

section
/-! PROOFS. 44_chunk_writer_crc.md R241: PACK, its checks and the raw stream. -/

namespace Sys2Proof.Machine

open Sys2Proof.Spec

theorem exec_pack_ready {s : State} (h : s.ready = true) : exec .pack s = .next (packBody (acceptCommand s)) :=
  operation_ready packBody h

theorem packBody_gridBeyondCap {s : State} (h : s.cfg.gridCap.toNat < 4 * s.regs.dw.toNat * s.regs.dh.toNat) :
    packBody s = raiseError .pack .capacity 0 0 s :=
  if_pos h

theorem packBody_streamBeyondCap {s : State} (hgrid : 4 * s.regs.dw.toNat * s.regs.dh.toNat ≤ s.cfg.gridCap.toNat)
    (h : s.cfg.rbufCap.toNat < streamLength s.regs.dw.toNat s.regs.dh.toNat) :
    packBody s = raiseError .pack .capacity 0 1 s := by
  rw [packBody, if_neg (Nat.not_lt.2 hgrid), if_pos h]

theorem packedStream_read_beyond {s : State} (hwf : Memory.wf s.rbuf.cells = true) {a : Nat}
    (ha : streamLength s.regs.dw.toNat s.regs.dh.toNat ≤ a) : (packedStream s).read a = s.rbuf.read a := by
  rw [packedStream, Buffer.read_writeBytes _ _ _ _ hwf, packStream_length, if_neg (by omega)]

/-- Settles O47: one lemma for each check; the stream is written row by row, the tag None before the row's bytes. -/
theorem packPrefixesEveryRow : Obligations.PackPrefixesEveryRow := by
  refine ⟨rfl, ?_⟩
  intro s W H hready hwf
  refine ⟨fun hlarge => ?_, fun hgrid hlong => ?_, fun hgrid hstream => ?_⟩
  · exact ⟨_, exec_pack_ready hready,
      packBody_gridBeyondCap (s := acceptCommand s) hlarge ▸ raiseError_records .pack .capacity 0 0 8 _ rfl⟩
  · exact ⟨_, exec_pack_ready hready,
      packBody_streamBeyondCap (s := acceptCommand s) hgrid hlong ▸ raiseError_records .pack .capacity 0 1 8 _ rfl⟩
  · refine ⟨packedStream s, exec_pack_fits hready hgrid hstream, fun y hy => ⟨packedStream_tag hwf hy, fun i hi => ?_⟩,
      fun a ha => packedStream_read_beyond hwf ha⟩
    exact packedStream_data hwf hy hi

end Sys2Proof.Machine
end

section
/-! PROOFS. 44_chunk_writer_crc.md R245 to R247, R251, R254: EMIT, its checks and the file. A frame is a chunk as PARSE reads it,
so the lemmas about chunks that lie in FBUF speak of what EMIT has written. -/

namespace Sys2Proof.Machine

open Sys2Proof.Spec

/-! ### The checks -/

theorem exec_emit_ready {s : State} (h : s.ready = true) : exec .emit s = .next (emitBody (acceptCommand s)) :=
  operation_ready emitBody h

theorem emitBody_streamBeyondCap {s : State} (h : s.cfg.zbufCap.toNat < s.regs.zlen.toNat) :
    emitBody s = raiseError .emit .param 0 0 s :=
  if_pos h

theorem emitBody_fileBeyondCap {s : State} (hzlen : s.regs.zlen.toNat ≤ s.cfg.zbufCap.toNat)
    (h : s.cfg.fbufCap.toNat < 57 + s.regs.zlen.toNat) : emitBody s = raiseError .emit .capacity 0 0 s := by
  rw [emitBody, if_neg (Nat.not_lt.2 hzlen), if_pos h]

/-! ### The normal end -/

/-- The operands pass both checks of R245. -/
structure State.EmitFits (s : State) : Prop where
  stream : s.regs.zlen.toNat ≤ s.cfg.zbufCap.toNat
  file : 57 + s.regs.zlen.toNat ≤ s.cfg.fbufCap.toNat

/-- The stream EMIT takes from ZBUF. -/
def State.stream (s : State) : List Byte := s.zbuf.readBytes 0 s.regs.zlen.toNat

/-- FBUF after EMIT. Irreducible, since to unfold it in a definitional check is to compute the file's checksums. -/
@[irreducible] def emittedBuffer (s : State) : Buffer := s.fbuf.writeBytes 0 (emittedFile s.regs.dw s.regs.dh s.stream)

/-- `s` after EMIT has ended without error. -/
def State.emitted (s : State) : State :=
  { s with
    fbuf := emittedBuffer s
    regs := { s.regs with flen := BitVec.ofNat 32 (57 + s.regs.zlen.toNat) }
    status := doneStatus s.status }

@[simp] theorem emitted_fbuf (s : State) : s.emitted.fbuf = emittedBuffer s := rfl

theorem emitBody_fits {s : State} (h : s.EmitFits) :
    emitBody s =
      { complete s with
        fbuf := emittedBuffer s
        regs := { s.regs with flen := BitVec.ofNat 32 (57 + s.regs.zlen.toNat) } } := by
  rw [emitBody, if_neg (Nat.not_lt.2 h.stream), if_neg (Nat.not_lt.2 h.file)]
  simp only [complete, emittedBuffer, State.stream]

theorem emittedBuffer_acceptCommand (s : State) : emittedBuffer (acceptCommand s) = emittedBuffer s := by
  simp only [emittedBuffer, State.stream, acceptCommand_fbuf, acceptCommand_zbuf, acceptCommand_regs]

theorem exec_emit_fits {s : State} (hready : s.ready = true) (h : s.EmitFits) : exec .emit s = .next s.emitted := by
  have hfits : (acceptCommand s).EmitFits := { h with }
  rw [exec_emit_ready hready, emitBody_fits hfits, complete_acceptCommand hready, emittedBuffer_acceptCommand]
  rfl

/-- Where one of the checks fails EMIT records an error. -/
theorem emitFits_of_err_false {s : State} (h : (emitBody s).status.err = false) : s.EmitFits := by
  rcases Nat.lt_or_ge s.cfg.zbufCap.toNat s.regs.zlen.toNat with hlong | hzlen
  · rw [emitBody_streamBeyondCap hlong] at h
    cases h
  rcases Nat.lt_or_ge s.cfg.fbufCap.toNat (57 + s.regs.zlen.toNat) with hlong | hfile
  · rw [emitBody_fileBeyondCap hzlen hlong] at h
    cases h
  exact ⟨hzlen, hfile⟩

theorem exec_emit_err_false {s t : State} (hready : s.ready = true) (h : exec .emit s = .next t)
    (herr : t.status.err = false) : s.EmitFits ∧ t = s.emitted := by
  have hbody : emitBody (acceptCommand s) = t := by
    rw [exec_emit_ready hready] at h
    exact Host.Outcome.next.inj h
  rw [← hbody] at herr
  have hfits : s.EmitFits := { emitFits_of_err_false herr with }
  rw [exec_emit_fits hready hfits] at h
  exact ⟨hfits, (Host.Outcome.next.inj h).symm⟩

/-! ### The chunks of the file -/

/-- The chunk whose bytes are a frame (R246). -/
def framedChunk (tag : Word) (body : List Byte) : RawChunk := ⟨tag, body, be32 (crc32 (be32 tag ++ body))⟩

theorem framedChunk_bytes (tag : Word) (body : List Byte) : (framedChunk tag body).bytes = frame tag body := rfl

theorem framedChunk_framed (tag : Word) {body : List Byte} (h : body.length < 2 ^ 32) :
    (framedChunk tag body).framed = true :=
  (framed_iff _).2 ⟨h, rfl⟩

theorem headerPayload_length (w h : Word) : (headerPayload w h).length = 13 := rfl

/-- The header chunk EMIT writes (R247). -/
def headerChunk (w h : Word) : RawChunk := framedChunk tagIHDR (headerPayload w h)

/-- The data chunk EMIT writes. -/
def dataChunk (z : List Byte) : RawChunk := framedChunk tagIDAT z

/-- The terminal chunk EMIT writes. -/
def endChunk : RawChunk := framedChunk tagIEND []

/-- The file lies in the buffer, chunk by chunk, at the offsets of the layout table (R251). -/
structure Buffer.HoldsEmitted (b : Buffer) (w h : Word) (z : List Byte) : Prop where
  signature : b.holdsAt 0 signatureBytes
  header : b.holdsAt 8 (headerChunk w h).bytes
  data : b.holdsAt 33 (dataChunk z).bytes
  terminal : b.holdsAt (45 + z.length) endChunk.bytes

theorem holdsEmitted_of_holdsAt {b : Buffer} {w h : Word} {z : List Byte} (hb : b.holdsAt 0 (emittedFile w h z)) :
    b.HoldsEmitted w h z := by
  simp only [emittedFile, Buffer.holdsAt_append, List.length_append, frame_length] at hb
  obtain ⟨⟨⟨hsig, hheader⟩, hdata⟩, hend⟩ := hb
  have hplace : 0 + (signatureBytes.length + (12 + (headerPayload w h).length) + (12 + z.length)) = 45 + z.length := by
    change 0 + (8 + (12 + 13) + (12 + z.length)) = 45 + z.length
    omega
  rw [hplace] at hend
  exact ⟨hsig, hheader, hdata, hend⟩

/-- What was written reads back (20_memory.md R68). -/
theorem Buffer.holdsAt_writeBytes {b : Buffer} (h : Memory.wf b.cells = true) (a : Nat) (l : List Byte) :
    (b.writeBytes a l).holdsAt a l := by
  refine List.ext_getElem (Buffer.readBytes_length ..) fun i _ hi => ?_
  rw [← List.getD_eq_getElem _ 0, ← List.getD_eq_getElem _ 0, Buffer.readBytes_getD _ _ _ _ hi,
    Buffer.read_writeBytes _ _ _ _ h, if_pos (by omega), Nat.add_sub_cancel_left]

@[simp] theorem stream_length (s : State) : s.stream.length = s.regs.zlen.toNat := Buffer.readBytes_length ..

theorem emittedBuffer_holdsAt {s : State} (h : Memory.wf s.fbuf.cells = true) :
    (emittedBuffer s).holdsAt 0 (emittedFile s.regs.dw s.regs.dh s.stream) := by
  rw [emittedBuffer]
  exact Buffer.holdsAt_writeBytes h 0 _

theorem emittedBuffer_holds {s : State} (h : Memory.wf s.fbuf.cells = true) :
    (emittedBuffer s).HoldsEmitted s.regs.dw s.regs.dh s.stream :=
  holdsEmitted_of_holdsAt (emittedBuffer_holdsAt h)

theorem emittedBuffer_read_beyond {s : State} (h : Memory.wf s.fbuf.cells = true) {a : Nat}
    (ha : 57 + s.regs.zlen.toNat ≤ a) : (emittedBuffer s).read a = s.fbuf.read a := by
  rw [emittedBuffer, Buffer.read_writeBytes _ _ _ _ h, emittedFile_length, stream_length, if_neg (by omega)]

/-! ### The fields of a frame that lies in a buffer -/

/-- The four fields of a frame (R246). -/
structure Buffer.HoldsFrame (b : Buffer) (p : Nat) (tag : Word) (body : List Byte) : Prop where
  lengthField : b.holdsAt p (be32 (BitVec.ofNat 32 body.length))
  tagField : b.holdsAt (p + 4) (be32 tag)
  payload : b.holdsAt (p + 8) body
  trailer : b.holdsAt (p + 8 + body.length) (be32 (crc32 (be32 tag ++ body)))

theorem holdsFrame_of_holdsAt {b : Buffer} {p : Nat} {tag : Word} {body : List Byte}
    (h : b.holdsAt p (framedChunk tag body).bytes) : b.HoldsFrame p tag body := by
  simp only [framedChunk_bytes, frame, Buffer.holdsAt_append, List.length_append, be32_length] at h
  obtain ⟨⟨⟨hlength, htag⟩, hbody⟩, htrailer⟩ := h
  rw [← Nat.add_assoc] at htrailer
  exact ⟨hlength, htag, hbody, htrailer⟩

section Frame

variable {b : Buffer} {p : Nat} {tag : Word} {body : List Byte} (h : b.HoldsFrame p tag body)

include h

/-- The checksum covers the tag and the payload as they lie in the buffer. -/
theorem holdsFrame_trailer :
    b.readBytes (p + 8 + body.length) 4 = be32 (crc32 (b.readBytes (p + 4) (4 + body.length))) := by
  have hcovered : b.readBytes (p + 4) (4 + body.length) = be32 tag ++ body := by
    rw [Buffer.readBytes_add, Nat.add_assoc, h.payload]
    exact congrArg (· ++ body) h.tagField
  rw [hcovered]
  exact h.trailer

/-- The trailer of a frame verifies, over the length that the length field says (R254). -/
theorem holdsFrame_trailer_verifies (hlen : body.length < 2 ^ 32) :
    crc32 (b.readBytes (p + 4) (4 + (b.readBE32 p).toNat)) = b.readBE32 (p + 8 + (b.readBE32 p).toNat) := by
  have hlength : (b.readBE32 p).toNat = body.length := by
    rw [Buffer.holdsAt_be32 h.lengthField, BitVec.toNat_ofNat, Nat.mod_eq_of_lt hlen]
  rw [hlength]
  exact (Buffer.holdsAt_be32 (holdsFrame_trailer h)).symm

end Frame

/-! ### The layout table (R251), chunk by chunk -/

theorem headerChunk_layout {b : Buffer} {p : Nat} {w h : Word} (hb : b.holdsAt p (headerChunk w h).bytes) :
    b.readBytes p 4 = [0x00, 0x00, 0x00, 0x0D] ∧ b.readBytes (p + 4) 4 = [0x49, 0x48, 0x44, 0x52] ∧
      b.readBytes (p + 8) 4 = be32 w ∧ b.readBytes (p + 12) 4 = be32 h ∧
      b.readBytes (p + 16) 5 = [0x08, 0x06, 0x00, 0x00, 0x00] ∧
      b.readBytes (p + 21) 4 = be32 (crc32 (b.readBytes (p + 4) 17)) := by
  have hframe := holdsFrame_of_holdsAt hb
  obtain ⟨hlength, htag, hpayload, -⟩ := holdsFrame_of_holdsAt hb
  rw [headerPayload_length] at hlength
  rw [headerPayload, Buffer.holdsAt_append, Buffer.holdsAt_append] at hpayload
  obtain ⟨⟨hwidth, hheight⟩, hconstants⟩ := hpayload
  exact ⟨hlength.trans (by decide), htag.trans (by decide), hwidth, hheight, hconstants, holdsFrame_trailer hframe⟩

theorem dataChunk_layout {b : Buffer} {p : Nat} {z : List Byte} (hb : b.holdsAt p (dataChunk z).bytes) :
    b.readBytes p 4 = be32 (BitVec.ofNat 32 z.length) ∧ b.readBytes (p + 4) 4 = [0x49, 0x44, 0x41, 0x54] ∧
      b.readBytes (p + 8) z.length = z ∧
      b.readBytes (p + 8 + z.length) 4 = be32 (crc32 (b.readBytes (p + 4) (4 + z.length))) := by
  have hframe := holdsFrame_of_holdsAt hb
  exact ⟨hframe.lengthField, hframe.tagField.trans (by decide), hframe.payload, holdsFrame_trailer hframe⟩

/-- The trailer of the terminal chunk is a constant. -/
theorem endChunk_layout {b : Buffer} {p : Nat} (hb : b.holdsAt p endChunk.bytes) :
    b.readBytes p 4 = [0x00, 0x00, 0x00, 0x00] ∧ b.readBytes (p + 4) 4 = [0x49, 0x45, 0x4E, 0x44] ∧
      b.readBytes (p + 8) 4 = [0xAE, 0x42, 0x60, 0x82] := by
  obtain ⟨hlength, htag, -, htrailer⟩ := holdsFrame_of_holdsAt hb
  exact ⟨hlength.trans (by decide), htag.trans (by decide), htrailer.trans (by decide +kernel)⟩

/-- Settles O48: one lemma for each check; the file is the signature and three chunks, each with its layout. -/
theorem emitLaysOutTheFile : Obligations.EmitLaysOutTheFile := by
  refine ⟨rfl, ?_⟩
  intro s Z hready hwf
  refine ⟨fun hlong => ?_, fun hzlen hlong => ?_, fun hzlen hfile => ?_⟩
  · exact ⟨_, exec_emit_ready hready,
      emitBody_streamBeyondCap (s := acceptCommand s) hlong ▸ raiseError_records .emit .param 0 0 9 _ rfl⟩
  · exact ⟨_, exec_emit_ready hready,
      emitBody_fileBeyondCap (s := acceptCommand s) hzlen hlong ▸ raiseError_records .emit .capacity 0 0 8 _ rfl⟩
  · obtain ⟨hsig, hheader, hdata, hend⟩ := emittedBuffer_holds hwf
    obtain ⟨hlength, htag, hwidth, hheight, hconstants, htrailer⟩ := headerChunk_layout hheader
    obtain ⟨hdataLength, hdataTag, hstream, hdataTrailer⟩ := dataChunk_layout hdata
    rw [stream_length] at hdataLength hstream hdataTrailer hend
    rw [BitVec.ofNat_toNat, BitVec.setWidth_eq] at hdataLength
    obtain ⟨hendLength, hendTag, hendTrailer⟩ := endChunk_layout hend
    rw [Nat.add_right_comm] at hendTag hendTrailer
    exact ⟨emittedBuffer s, exec_emit_fits hready ⟨hzlen, hfile⟩, hsig, hlength, htag, hwidth, hheight, hconstants,
      htrailer, hdataLength, hdataTag, hstream, hdataTrailer, hendLength, hendTag, hendTrailer,
      fun a ha => emittedBuffer_read_beyond hwf ha⟩

/-- Settles O52: each of the three offsets holds a frame, whose trailer verifies. -/
theorem emittedTrailersVerify : Obligations.EmittedTrailersVerify := by
  intro s t hready hwf hexec herr p hp
  obtain ⟨-, rfl⟩ := exec_emit_err_false hready hexec herr
  have hheld := emittedBuffer_holds hwf
  rw [emitted_fbuf]
  rw [List.mem_cons, List.mem_cons, List.mem_singleton, ← stream_length s] at hp
  rcases hp with rfl | rfl | rfl
  · exact holdsFrame_trailer_verifies (holdsFrame_of_holdsAt hheld.header) (by rw [headerPayload_length]; decide)
  · exact holdsFrame_trailer_verifies (holdsFrame_of_holdsAt hheld.data) (by rw [stream_length]; exact s.regs.zlen.isLt)
  · exact holdsFrame_trailer_verifies (holdsFrame_of_holdsAt hheld.terminal) (by decide)

end Sys2Proof.Machine
end

section
/-! PROOFS. 44_chunk_writer_crc.md R253: PARSE of what EMIT wrote gives header and stream back, and the round trip through all
four commands gives the image back. -/

namespace Sys2Proof.Machine

open Sys2Proof.Spec

/-- A length within a capacity fits its register. -/
theorem toNat_ofNat_of_le {n : Nat} {cap : Word} (h : n ≤ cap.toNat) : (BitVec.ofNat 32 n).toNat = n :=
  (BitVec.toNat_ofNat ..).trans (Nat.mod_eq_of_lt (Nat.lt_of_le_of_lt h cap.isLt))

/-! ### PARSE after EMIT -/

/-- The chunks of the file before the terminal one. -/
def State.emittedFront (s : State) : List RawChunk := [headerChunk s.regs.dw s.regs.dh, dataChunk s.stream]

theorem emittedFile_eq_fileOf (s : State) :
    emittedFile s.regs.dw s.regs.dh s.stream = fileOf s.emittedFront (some (endChunk, [])) := by
  simp only [emittedFile, fileOf, State.emittedFront, headerChunk, dataChunk, endChunk, List.flatMap_cons,
    List.flatMap_nil, List.append_nil, List.append_assoc, framedChunk_bytes]
  rfl

theorem emittedFront_acceptable (s : State) :
    ∀ c ∈ s.emittedFront, c.framed = true ∧ c.acceptable = true ∧ c.tag ≠ tagIEND := by
  rw [State.emittedFront, List.forall_mem_cons, List.forall_mem_singleton]
  constructor
  · exact ⟨framedChunk_framed _ (by rw [headerPayload_length]; decide), rfl, (by decide : tagIHDR ≠ tagIEND)⟩
  · exact ⟨framedChunk_framed _ (by rw [stream_length]; exact s.regs.zlen.isLt), rfl, (by decide : tagIDAT ≠ tagIEND)⟩

theorem endChunk_terminal (c : RawChunk) (rest : List Byte) (h : some (endChunk, []) = some (c, rest)) :
    c.framed = true ∧ c.tag = tagIEND := by
  cases h
  exact ⟨framedChunk_framed _ (by decide), rfl⟩

theorem headerChunk_width (w h : Word) :
    be32Of ((headerChunk w h).body.getD 0 0) ((headerChunk w h).body.getD 1 0) ((headerChunk w h).body.getD 2 0)
      ((headerChunk w h).body.getD 3 0) = w :=
  be32Of_be32 w

theorem headerChunk_height (w h : Word) :
    be32Of ((headerChunk w h).body.getD 4 0) ((headerChunk w h).body.getD 5 0) ((headerChunk w h).body.getD 6 0)
      ((headerChunk w h).body.getD 7 0) = h :=
  be32Of_be32 h

theorem dataOf_emittedFront (s : State) : dataOf s.emittedFront = s.stream := List.append_nil s.stream

theorem emitted_flen {s : State} (h : s.EmitFits) : s.emitted.regs.flen.toNat = 57 + s.regs.zlen.toNat :=
  toNat_ofNat_of_le h.file

theorem emitted_flen_eq_length {s : State} (h : s.EmitFits) :
    s.emitted.regs.flen.toNat = (fileOf s.emittedFront (some (endChunk, []))).length := by
  rw [emitted_flen h, ← emittedFile_eq_fileOf, emittedFile_length, stream_length]

/-- FBUF[0..FLEN) after EMIT is a file that PARSE reads. -/
theorem emitted_readBytes {s : State} (hwf : Memory.wf s.fbuf.cells = true) (hfits : s.EmitFits) :
    s.emitted.fbuf.readBytes 0 s.emitted.regs.flen.toNat = fileOf s.emittedFront (some (endChunk, [])) := by
  rw [emitted_flen_eq_length hfits, ← emittedFile_eq_fileOf]
  exact emittedBuffer_holdsAt hwf

/-- `s` after EMIT and PARSE, with what PARSE leaves in ZBUF. -/
def State.parsedBack (s : State) (z : Buffer) : State :=
  { s.emitted with
    zbuf := z
    regs := s.emitted.regs.withHeader s.regs.dw s.regs.dh
    status := { busy := false, done := true, err := false, hdrSeen := true, endSeen := true } }

theorem parsedBack_ready {s : State} (h : s.ready = true) (z : Buffer) : (s.parsedBack z).ready = true := by
  obtain ⟨-, -, hidle⟩ := (ready_iff s).1 h
  exact (ready_iff _).2 ⟨rfl, rfl, hidle⟩

/-- PARSE of what EMIT wrote reads one header chunk and one data chunk, and ends at the terminal chunk. -/
theorem exec_parse_emitted {s : State} (hready : s.ready = true) (hfbuf : Memory.wf s.fbuf.cells = true)
    (hzbuf : Memory.wf s.zbuf.cells = true) (hfits : s.EmitFits) :
    ∃ z, exec .parse s.emitted = .next (s.parsedBack z) ∧ ∀ a, z.read a = s.zbuf.read a := by
  obtain ⟨z, hexec, hbelow, hbeyond⟩ := parseReadsAWholeFile s.emitted s.emittedFront (some (endChunk, []))
    (headerChunk s.regs.dw s.regs.dh) hready hzbuf (emittedFront_acceptable s) endChunk_terminal rfl
    (emitted_flen_eq_length hfits) ((emitted_flen hfits).trans_le hfits.file) (emitted_readBytes hfbuf hfits)
    (by rw [dataOf_emittedFront, stream_length]; exact hfits.stream)
  rw [dataOf_emittedFront, stream_length] at hexec hbelow hbeyond
  rw [BitVec.ofNat_toNat, BitVec.setWidth_eq, headerChunk_width, headerChunk_height] at hexec
  refine ⟨z, hexec, fun a => ?_⟩
  rcases Nat.lt_or_ge a s.regs.zlen.toNat with hlt | hge
  · rw [hbelow a hlt, State.stream, Buffer.readBytes_getD _ _ _ _ hlt, Nat.zero_add]
  · exact hbeyond a hge

/-- Settles O54: the file EMIT writes is one that PARSE reads to the end. -/
theorem emitThenParseRestoresTheStream : Obligations.EmitThenParseRestoresTheStream := by
  intro s hready hfbuf hzbuf hzlen hfile
  have hfits : s.EmitFits := ⟨hzlen, hfile⟩
  obtain ⟨z, hparse, hz⟩ := exec_parse_emitted hready hfbuf hzbuf hfits
  exact ⟨s.emitted, s.parsedBack z, exec_emit_fits hready hfits, hparse, rfl, rfl, rfl, rfl, rfl, rfl, hz⟩

/-! ### RECON over a packed stream -/

/-- RBUF[0..RLEN) of `s` is the stream PACK makes of the grid of `u`, with that grid's dimensions in the header registers,
within the capacities. -/
structure State.HoldsPacked (s u : State) : Prop where
  rbuf : s.rbuf = packedStream u
  canonical : Memory.wf u.rbuf.cells = true
  width : s.regs.hdrWidth = u.regs.dw
  height : s.regs.hdrHeight = u.regs.dh
  rlen : s.regs.rlen.toNat = streamLength u.regs.dw.toNat u.regs.dh.toNat
  streamFits : streamLength u.regs.dw.toNat u.regs.dh.toNat ≤ s.cfg.rbufCap.toNat
  gridFits : 4 * u.regs.dw.toNat * u.regs.dh.toNat ≤ s.cfg.gridCap.toNat

section Packed

variable {s u : State} (h : s.HoldsPacked u)

include h

theorem holdsPacked_tag {y : Nat} (hy : y < u.regs.dh.toNat) : rowTag s y = 0 := by
  rw [rowTag, h.rbuf, h.width]
  exact packedStream_tag h.canonical hy

theorem holdsPacked_data {y i : Nat} (hy : y < u.regs.dh.toNat) (hi : i < stride u.regs.dw.toNat) :
    rawByte s y i = u.gdst.read (y * stride u.regs.dw.toNat + i) := by
  rw [rawByte, h.rbuf, h.width]
  exact packedStream_data h.canonical hy hi

theorem exec_recon_packed (hready : s.ready = true) :
    exec .recon s =
      .next
        { s with
          gsrc := reconGrid s
          regs := { s.regs with sw := s.regs.hdrWidth, sh := s.regs.hdrHeight }
          status := doneStatus s.status } := by
  refine exec_recon_legal hready (h.rlen.trans_le h.streamFits) ?_ ?_ fun y hy => ?_
  · rw [h.width, h.height]
    exact h.gridFits
  · rw [h.width, h.height]
    exact h.rlen.ge
  · rw [h.height] at hy
    rw [holdsPacked_tag h hy]
    decide

/-- Under the tag None every row of the grid is the row PACK took (R194). -/
theorem reconGrid_read_packed (hwf : Memory.wf s.gsrc.cells = true) {a : Nat}
    (ha : a < 4 * u.regs.dw.toNat * u.regs.dh.toNat) : (reconGrid s).read a = u.gdst.read a := by
  have hpos : 0 < stride u.regs.dw.toNat := Nat.pos_of_mul_pos_right (Nat.zero_lt_of_lt ha)
  have hy : a / stride u.regs.dw.toNat < u.regs.dh.toNat := Nat.div_lt_of_lt_mul ha
  have hi : a % stride u.regs.dw.toNat < stride u.regs.dw.toNat := Nat.mod_lt a hpos
  have hrow := reconGrid_read_none hwf (by rwa [h.height]) (by rwa [h.width]) (holdsPacked_tag h hy)
  rwa [h.width, holdsPacked_data h hy hi, Nat.div_add_mod'] at hrow

end Packed

/-! ### The whole round trip -/

theorem bufferOk_wf {cap : Nat} {b : Buffer} (h : bufferOk cap b = true) : Memory.wf b.cells = true :=
  (Bool.and_eq_true_iff.1 h).1

/-- `s` after PACK has ended without error. -/
def State.packed (s : State) : State :=
  { s with
    rbuf := packedStream s
    regs := { s.regs with rlen := BitVec.ofNat 32 (streamLength s.regs.dw.toNat s.regs.dh.toNat) }
    status := doneStatus s.status }

/-- `s` with the stream `z` in ZBUF, put there by the host. -/
def State.withStream (s : State) (z : List Byte) : State :=
  { s with zbuf := s.zbuf.writeBytes 0 z, regs := { s.regs with zlen := BitVec.ofNat 32 z.length } }

theorem withStream_zlen {s : State} {z : List Byte} (hz : z.length ≤ s.cfg.zbufCap.toNat) :
    (s.withStream z).regs.zlen.toNat = z.length :=
  toNat_ofNat_of_le hz

theorem withStream_stream {s : State} {z : List Byte} (hwf : Memory.wf s.zbuf.cells = true)
    (hz : z.length ≤ s.cfg.zbufCap.toNat) : (s.withStream z).stream = z := by
  rw [State.stream, withStream_zlen hz]
  exact Buffer.holdsAt_writeBytes hwf 0 z

/-- What the host compresses after PACK is the packed stream. -/
theorem hostCompresses_packed {s : State} (compress : List Byte → List Byte) (hwf : Memory.wf s.rbuf.cells = true)
    (hstream : streamLength s.regs.dw.toNat s.regs.dh.toNat ≤ s.cfg.rbufCap.toNat) :
    hostCompresses compress s.packed =
      s.packed.withStream (compress (packStream s.gdst s.regs.dw.toNat s.regs.dh.toNat)) := by
  have hrlen : s.packed.regs.rlen.toNat = streamLength s.regs.dw.toNat s.regs.dh.toNat :=
    toNat_ofNat_of_le hstream
  have hread : s.packed.rbuf.readBytes 0 s.packed.regs.rlen.toNat =
      packStream s.gdst s.regs.dw.toNat s.regs.dh.toNat := by
    rw [hrlen, ← packStream_length s.gdst]
    exact Buffer.holdsAt_writeBytes hwf 0 _
  simp only [hostCompresses, hread, State.withStream]

/-- Where the host decompresses to the stream PACK makes of a grid, RBUF holds that stream. -/
theorem hostDecompresses_holdsPacked {s u : State} {decompress : List Byte → List Byte}
    (hwf : Memory.wf s.rbuf.cells = true)
    (hpacked : decompress s.stream = packStream u.gdst u.regs.dw.toNat u.regs.dh.toNat)
    (hwidth : s.regs.hdrWidth = u.regs.dw) (hheight : s.regs.hdrHeight = u.regs.dh)
    (hstream : streamLength u.regs.dw.toNat u.regs.dh.toNat ≤ s.cfg.rbufCap.toNat)
    (hgrid : 4 * u.regs.dw.toNat * u.regs.dh.toNat ≤ s.cfg.gridCap.toNat) :
    (hostDecompresses decompress s).HoldsPacked { u with rbuf := s.rbuf } := by
  rw [hostDecompresses, ← State.stream, hpacked]
  refine ⟨rfl, hwf, hwidth, hheight, ?_, hstream, hgrid⟩
  rw [packStream_length]
  exact toNat_ofNat_of_le hstream

/-- Settles O55: PACK's stream passes the host's two steps, EMIT and PARSE unchanged, and RECON takes the grid from it. -/
theorem roundTripRestoresTheImage : Obligations.RoundTripRestoresTheImage := by
  intro s compress decompress W H z hready hinv hinverse hgrid hstream hz hfile
  obtain ⟨hsound, -, -⟩ := (inv_iff s).1 hinv
  have hzbuf := bufferOk_wf hsound.zbuf
  have hrbuf := bufferOk_wf hsound.rbuf
  set t := s.packed.withStream z
  have htready : t.ready = true := hready
  have hzlen : t.regs.zlen.toNat = z.length := withStream_zlen hz
  have htstream : t.stream = z := withStream_stream hzbuf hz
  have hfits : t.EmitFits := ⟨by rwa [hzlen], by rwa [hzlen]⟩
  have hcompressed : hostCompresses compress s.packed = t := hostCompresses_packed compress hrbuf hstream
  obtain ⟨b, hparse, hb⟩ :=
    exec_parse_emitted htready (bufferOk_wf hsound.fbuf) (Buffer.writeBytes_wf _ 0 z hzbuf) hfits
  have hback : (t.parsedBack b).stream = z := (Buffer.readBytes_congr _ _ _ _ fun a _ _ => hb a).trans htstream
  have hpacked : (hostDecompresses decompress (t.parsedBack b)).HoldsPacked { s with rbuf := packedStream s } :=
    hostDecompresses_holdsPacked (Buffer.writeBytes_wf _ 0 _ hrbuf) (by rw [hback]; exact hinverse _) rfl rfl hstream
      hgrid
  refine ⟨s.packed, t.emitted, t.parsedBack b, _, exec_pack_fits hready hgrid hstream, ?_, hparse,
    exec_recon_packed hpacked (parsedBack_ready htready b), rfl, rfl, rfl, rfl, rfl, rfl, fun a ha => ?_⟩
  · rw [hcompressed]
    exact exec_emit_fits htready hfits
  · exact reconGrid_read_packed hpacked (bufferOk_wf hsound.gsrc) ha

end Sys2Proof.Machine
end

section
/-! PROOFS. 60_exceptions.md R284, R286, R288, R296: which row's error RECON reports, what an action inside PARSE or RECON
may change, the illegal command word, and the idle block. -/

namespace Sys2Proof.Machine

open Sys2Proof.Spec

/-! ### The first illegal row (R288) -/

theorem rowAction_illegal {tag : Byte} (h : 4 < tag.toNat) (y : Nat) (prev : List Byte) (s : State) :
    rowAction tag y prev s = illegalRow tag y s := by
  have hnot : tag ∉ legalFilterTags := mt (mem_legalFilterTags_iff tag).1 (Nat.not_le.2 h)
  simp only [legalFilterTags, List.mem_cons, List.not_mem_nil, or_false, not_or] at hnot
  simp only [rowAction, hnot, if_false]

theorem rowStep_illegal {s : State} {y : Nat} (hy : y < s.regs.hdrHeight.toNat) (htag : 4 < (rowTag s y).toNat)
    (prev : List Byte) : rowStep y prev s = illegalRow (rowTag s y) y s :=
  (if_pos hy).trans (rowAction_illegal htag ..)

/-- The row loop takes one turn for each legal row above the first illegal one, whose turn raises and ends it: no turn
looks at a later row. -/
theorem rows_firstIllegal {s : State} {y : Nat} (hy : y < s.regs.hdrHeight.toNat) (htag : 4 < (rowTag s y).toNat)
    (hlegal : ∀ k, k < y → (rowTag s k).toNat ≤ 4) :
    rows (s.regs.hdrHeight.toNat + 1) (beginRows s) = illegalRow (rowTag s y) y (s.afterRows y) := by
  obtain ⟨n, hn⟩ := Nat.exists_eq_add_of_le hy.le
  calc rows (s.regs.hdrHeight.toNat + 1) (beginRows s)
    _ = rows (y + (n + 1)) (beginRows s) := by rw [hn, Nat.add_assoc]
    _ = rows (n + 1) (s.afterRows y) := rows_afterRows (n + 1) hy.le hlegal
    _ = rows n (rowStep y (prevRow s y) (s.afterRows y)) := rows_recon n rfl
    _ = rows n (illegalRow (rowTag s y) y (s.afterRows y)) := by rw [rowStep_illegal (s := s.afterRows y) hy htag]; rfl
    _ = illegalRow (rowTag s y) y (s.afterRows y) := rows_idle n rfl

/-- Settles O36: past the checks RECON is its rows, which end in the first illegal one. -/
theorem reconReportsTheFirstIllegalRow : Obligations.ReconReportsTheFirstIllegalRow := by
  intro s y hready hlen hgrid hstream hy htag hlegal
  have hbody : reconBody (acceptCommand s) = illegalRow (tagByte s y) y ((acceptCommand s).afterRows y) :=
    (reconBody_rows (s := acceptCommand s) hlen hgrid hstream).trans
      (rows_firstIllegal (s := acceptCommand s) hy htag hlegal)
  rw [exec_recon_ready hready, hbody]
  exact ⟨_, rfl, raiseError_records .recon .filterTag y _ 4 _ rfl⟩

/-! ### The frame of the actions inside PARSE and RECON (R286) -/

theorem whileWalking_onlyOutputs {act : Nat → Nat → State → State}
    (hact : ∀ pos zlen s, onlyOutputsDiffer .parse s (act pos zlen s)) {s : State} {pos zlen : Nat}
    (h : s.seq = .parse pos zlen) : ∃ t, whileWalking act s = .next t ∧ onlyOutputsDiffer .parse s t :=
  ⟨_, whileWalking_parse h, hact pos zlen s⟩

theorem whileReconstructing_onlyOutputs {act : Nat → List Byte → State → State}
    (hact : ∀ y prev s, onlyOutputsDiffer .recon s (act y prev s)) {s : State} {y : Nat} {prev : List Byte}
    (h : s.seq = .recon y prev) : ∃ t, whileReconstructing act s = .next t ∧ onlyOutputsDiffer .recon s t :=
  ⟨_, whileReconstructing_recon h, hact y prev s⟩

theorem exec_chunkRow_onlyOutputs {s : State} {pos zlen : Nat} {i : Instr} {w : Word} (h : s.seq = .parse pos zlen)
    (hi : i ∈ [.ihdr, .idat, .iend, .chunkOther w]) : ∃ t, exec i s = .next t ∧ onlyOutputsDiffer .parse s t := by
  simp only [List.mem_cons, List.not_mem_nil, or_false] at hi
  rcases hi with rfl | rfl | rfl | rfl
  · exact whileWalking_onlyOutputs ihdrChunk_onlyOutputs h
  · exact whileWalking_onlyOutputs idatChunk_onlyOutputs h
  · exact whileWalking_onlyOutputs iendChunk_onlyOutputs h
  · exact whileWalking_onlyOutputs skipChunk_onlyOutputs h

theorem exec_filterRow_onlyOutputs {s : State} {y : Nat} {prev : List Byte} {i : Instr} {b : Byte}
    (h : s.seq = .recon y prev)
    (hi : i ∈ [.filtNone, .filtSub, .filtUp, .filtAverage, .filtPaeth, .filtIllegal b]) :
    ∃ t, exec i s = .next t ∧ onlyOutputsDiffer .recon s t := by
  simp only [List.mem_cons, List.not_mem_nil, or_false] at hi
  rcases hi with rfl | rfl | rfl | rfl | rfl | rfl
  · exact whileReconstructing_onlyOutputs (filterRow_onlyOutputs predNone) h
  · exact whileReconstructing_onlyOutputs (filterRow_onlyOutputs predSub) h
  · exact whileReconstructing_onlyOutputs (filterRow_onlyOutputs predUp) h
  · exact whileReconstructing_onlyOutputs (filterRow_onlyOutputs predAverage) h
  · exact whileReconstructing_onlyOutputs (filterRow_onlyOutputs paethPredictor) h
  · exact whileReconstructing_onlyOutputs (fun y _ u => illegalRow_onlyOutputs b y u) h

/-- Settles O21: each row is its own action, and each action has its frame, with or without an error. -/
theorem chunkAndRowActionsChangeOnlyTheirOutputs : Obligations.ChunkAndRowActionsChangeOnlyTheirOutputs :=
  ⟨fun _ _ _ _ _ h hi => exec_chunkRow_onlyOutputs h hi, fun _ _ _ _ _ h hi => exec_filterRow_onlyOutputs h hi⟩

/-! ### The idle block and the illegal command word (R296, R284) -/

/-- Settles O8: an idle block without a pending action fetches nothing. -/
theorem idleBlockKeepsAllState : Obligations.IdleBlockKeepsAllState := fun _ => step_idle

/-- The dispatcher has no outputs, so its error entry touches the flags and the error registers alone (R284, R286). -/
theorem raiseError_dispatcher {s : State} (hseq : s.seq = .idle) (e : Cause) (pos info : Nat) :
    raiseError .dispatcher e pos info s =
      { s with
        status := { s.status with err := true, busy := false, done := false }
        regs :=
          { s.regs with errCode := e.code, errPos := BitVec.ofNat 32 pos, errInfo := BitVec.ofNat 32 info } } := by
  rw [hseq]
  rfl

/-- Settles O17: a word that is not listed has the illegal row, and dispatch from a ready state is its error entry. -/
theorem illegalCommandIsRecorded : Obligations.IllegalCommandIsRecorded := by
  intro s w hready hw
  have hseq : s.seq = .idle := ((ready_iff s).1 hready).2.2
  refine ⟨decode_unlisted (c := .cmd w) hw, ?_⟩
  calc exec (.cmdIllegal w) s
    _ = .next (raiseError .dispatcher .illegalCmd 0 w.toNat s) := dispatch_ready _ hready
    _ = _ := by rw [raiseError_dispatcher hseq, BitVec.ofNat_toNat, BitVec.setWidth_eq]; rfl

end Sys2Proof.Machine
end

section
/-! PROOFS. 70_reset_and_hazards.md R320 with 20_memory.md R76 and 60_exceptions.md R290: a host that names only existing
bytes is never stopped. One step goes on and takes no action but from the front of the host's list, so the next state
meets again what the step relied on. -/

namespace Sys2Proof.Machine

/-- What a run relies on in every state: the invariant, and a host that names only bytes that exist. -/
structure State.GoesOn (s : State) : Prop where
  inv : s.inv = true
  inputs : ∀ a ∈ s.inputs, inputInRange s.cfg a = true

theorem inv_idle_not_busy {s : State} (hi : s.inv = true) (hs : s.seq = .idle) : s.status.busy = false := by
  obtain ⟨-, -, hseq⟩ := (inv_iff s).1 hi
  simpa [hs] using seqOk_busy_iff hseq

/-- On a block that is not busy every command word is answered (40_commands_control.md R130). -/
theorem exec_decodeCmd_answers {s : State} (w : Word) (hb : s.status.busy = false) :
    ∃ t, exec (decode (.cmd w)) s = .next t := by
  by_cases hclr : w = 0x0000000E
  · subst hclr
    exact ⟨_, exec_clrerr hb⟩
  by_cases hrst : w = 0x0000000F
  · subst hrst
    exact ⟨_, exec_rst hb⟩
  obtain ⟨run, hrun⟩ := exec_decodeCmd_dispatch hclr hrst
  rw [hrun]
  cases he : s.status.err with
  | true => exact ⟨s, dispatch_error run hb he⟩
  | false => exact ⟨run s, by simp [dispatch, hb, he]⟩

/-- On a block that is not busy a host access to what exists is answered (20_memory.md R76, R320). -/
theorem hostAccess_answers {s : State} {a : Input} (hb : s.status.busy = false) (ha : inputInRange s.cfg a = true) :
    ∃ t, hostAccess a s = .next t := by
  cases a with
  | writeReg slot v => exact ⟨writeSlot s slot v, by simp [hostAccess, hb]⟩
  | readReg slot => exact ⟨{ s with rdata := readSlot s slot }, by simp [hostAccess, hb]⟩
  | writeByte id off v =>
    have hoff : off < capacityOf s.cfg id := of_decide_eq_true ha
    exact ⟨s.setBuf id ((s.buf id).write off v), by simp [hostAccess, hb, hoff]⟩
  | readByte id off =>
    have hoff : off < capacityOf s.cfg id := of_decide_eq_true ha
    exact ⟨{ s with rdata := ((s.buf id).read off).setWidth 32 }, by simp [hostAccess, hb, hoff]⟩
  | reset => exact ⟨hardwareReset s, rfl⟩

/-- An idle block takes the host's next action and answers it. -/
theorem step_idle_answers {s : State} (h : s.GoesOn) (hs : s.seq = .idle) (hr : resetPending s = false) :
    ∃ t, step s = .next t ∧ t.inputs <:+ s.inputs := by
  have hb := inv_idle_not_busy h.inv hs
  cases hin : s.inputs with
  | nil => exact ⟨s, step_idle hs hin, by rw [hin]⟩
  | cons a rest =>
    by_cases hcmd : ∃ w, a = .writeReg 0 w
    · obtain ⟨w, rfl⟩ := hcmd
      obtain ⟨t, ht⟩ := exec_decodeCmd_answers (s := { s with inputs := rest }) w hb
      exact ⟨t, (step_command hs hin).trans ht, (exec_outside ht).2 ▸ List.suffix_cons _ _⟩
    · have hreset : a ≠ .reset := by
        rintro rfl
        simp [resetPending, hin] at hr
      have ha : inputInRange s.cfg a = true := h.inputs a (by simp [hin])
      obtain ⟨t, ht⟩ := hostAccess_answers (s := { s with inputs := rest }) hb ha
      exact ⟨t, (step_access hs hin hreset (not_exists.1 hcmd)).trans ht,
        (hostAccess_outside ht).2 ▸ List.suffix_cons _ _⟩

/-- No step stops, and what it leaves of the host's list is its tail or the whole of it. -/
theorem step_answers {s : State} (h : s.GoesOn) : ∃ t, step s = .next t ∧ t.inputs <:+ s.inputs := by
  cases hr : resetPending s with
  | true =>
    obtain ⟨rest, hin⟩ : ∃ rest, s.inputs = .reset :: rest := by
      simpa [resetPending, List.head?_eq_some_iff] using hr
    exact ⟨_, step_reset hin, hin ▸ List.suffix_cons _ _⟩
  | false =>
    cases hs : s.seq with
    | idle => exact step_idle_answers h hs hr
    | parse pos zlen => exact ⟨_, step_walking hs hr, by simp⟩
    | recon y prev => exact ⟨_, step_reconstructing hs hr, by simp⟩

theorem goesOn_step {s : State} (h : s.GoesOn) : ∃ t, step s = .next t ∧ t.GoesOn := by
  obtain ⟨t, ht, hsuffix⟩ := step_answers h
  refine ⟨t, ht, stepKeepsTheInvariant s t h.inv ht, fun a ha => ?_⟩
  rw [parametersNeverChange s t ht]
  exact h.inputs a (hsuffix.subset ha)

theorem goesOn_safeFor (n : Nat) {s : State} (h : s.GoesOn) : safeFor n s := by
  induction n generalizing s with
  | zero => trivial
  | succ n ih =>
    obtain ⟨t, ht, hnext⟩ := goesOn_step h
    exact ⟨t, ht, ih hnext⟩

/-- Settles O58: induction over the length of the run, whose first step meets again what it relied on. -/
theorem runsNeverStop : Obligations.RunsNeverStop := fun n _ hi hin => goesOn_safeFor n ⟨hi, hin⟩

end Sys2Proof.Machine
end

section
/-! PROOFS. 70_reset_and_hazards.md R312, R321: with its operands in place a command's result does not depend on bytes that
nothing has written. The rule of each command commutes with replacing its input buffer by one that reads the same where the
command reads, and other free values are such a buffer. -/

namespace Sys2Proof.Machine

/-! ### RECON reads the raw stream of HDR_HEIGHT rows, and no more (30_encoding.md R100) -/

/-- `b` reads as RBUF over the raw stream. -/
def State.agreesOnStream (s : State) (b : Buffer) : Prop :=
  ∀ a, a < streamLength s.regs.hdrWidth.toNat s.regs.hdrHeight.toNat → b.read a = s.rbuf.read a

section Row

variable {s : State} {b : Buffer} {y : Nat} (h : s.agreesOnStream b) (hy : y < s.regs.hdrHeight.toNat)

include h hy

/-- Byte j of row y, the tag being byte 0. -/
theorem agreesOnStream_row {j : Nat} (hj : j < 1 + stride s.regs.hdrWidth.toNat) :
    b.read (rowBase s.regs.hdrWidth.toNat y + j) = s.rbuf.read (rowBase s.regs.hdrWidth.toNat y + j) :=
  h _ (row_place_lt hy hj)

theorem rowTag_setRbuf : rowTag (s.setBuf .rbuf b) y = rowTag s y :=
  agreesOnStream_row h hy (j := 0) (by omega)

theorem rawRow_setRbuf : rawRow (s.setBuf .rbuf b) y = rawRow s y := by
  refine Buffer.readBytes_congr _ _ _ _ fun k hk hk' => ?_
  rw [setBuf_regs] at hk hk'
  obtain ⟨i, rfl⟩ := Nat.exists_eq_add_of_le hk
  rw [Nat.add_assoc]
  exact agreesOnStream_row h hy (by omega)

theorem filterRow_setRbuf (pred : Byte → Byte → Byte → Byte) (prev : List Byte) :
    filterRow pred y prev (s.setBuf .rbuf b) = (filterRow pred y prev s).setBuf .rbuf b := by
  simp only [filterRow, rawRow_setRbuf h hy]
  rfl

theorem rowAction_setRbuf (tag : Byte) (prev : List Byte) :
    rowAction tag y prev (s.setBuf .rbuf b) = (rowAction tag y prev s).setBuf .rbuf b := by
  simp only [rowAction, filterRow_setRbuf h hy]
  split_ifs <;> rfl

end Row

theorem rowStep_setRbuf {s : State} {b : Buffer} (h : s.agreesOnStream b) (y : Nat) (prev : List Byte) :
    rowStep y prev (s.setBuf .rbuf b) = (rowStep y prev s).setBuf .rbuf b := by
  simp only [rowStep, setBuf_regs]
  split
  · rename_i hy
    rw [rowTag_setRbuf h hy, rowAction_setRbuf h hy]
  · rfl

/-- RBUF and the image's dimensions are no outputs of RECON (20_memory.md R66). -/
theorem onlyOutputsDiffer_recon_inputs {s t : State} (h : onlyOutputsDiffer .recon s t) :
    t.rbuf = s.rbuf ∧ t.regs.hdrWidth = s.regs.hdrWidth ∧ t.regs.hdrHeight = s.regs.hdrHeight := by
  rw [h.1]
  exact ⟨rfl, rfl, rfl⟩

theorem rowStep_agreesOnStream {s : State} {b : Buffer} (h : s.agreesOnStream b) (y : Nat) (prev : List Byte) :
    (rowStep y prev s).agreesOnStream b := by
  obtain ⟨hrbuf, hwidth, hheight⟩ := onlyOutputsDiffer_recon_inputs (rowStep_onlyOutputs y prev s)
  rwa [State.agreesOnStream, hrbuf, hwidth, hheight]

theorem rows_setRbuf (n : Nat) {s : State} {b : Buffer} (h : s.agreesOnStream b) :
    rows n (s.setBuf .rbuf b) = (rows n s).setBuf .rbuf b := by
  induction n generalizing s with
  | zero => rfl
  | succ n ih =>
    cases hs : s.seq with
    | recon y prev =>
      simp only [rows, setBuf_seq, hs]
      rw [rowStep_setRbuf h, ih (rowStep_agreesOnStream h y prev)]
    | idle => simp only [rows, setBuf_seq, hs]
    | parse pos zlen => simp only [rows, setBuf_seq, hs]

theorem reconBody_setRbuf {s : State} {b : Buffer} (h : ∀ a, a < s.regs.rlen.toNat → b.read a = s.rbuf.read a) :
    reconBody (s.setBuf .rbuf b) = (reconBody s).setBuf .rbuf b := by
  simp only [reconBody, setBuf_cfg, setBuf_regs]
  split
  · rfl
  split
  · rfl
  split
  · rfl
  · rename_i hlen
    exact rows_setRbuf _ (s := beginRows s) fun a ha => h a (Nat.lt_of_lt_of_le ha (Nat.not_lt.1 hlen))

/-! ### RESIZE, PACK, EMIT and CRC -/

theorem resizeBody_setGsrc {s : State} {b : Buffer}
    (h : ∀ a, a < 4 * s.regs.sw.toNat * s.regs.sh.toNat → b.read a = s.gsrc.read a) :
    resizeBody (s.setBuf .gsrc b) = (resizeBody s).setBuf .gsrc b := by
  have hmask : resizeMask (s.setBuf .gsrc b) = resizeMask s := rfl
  simp only [resizeBody, hmask, setBuf_cfg, setBuf_regs]
  split
  · rfl
  split
  · rfl
  split
  · rfl
  · rename_i hzero _ _
    obtain ⟨hsw, hsh, -⟩ := (resizeMask_eq_zero_iff s).1 (not_not.1 hzero)
    rw [resizedBytes_congr (src' := (s.setBuf .gsrc b).gsrc) s.cfg.roundTie hsw hsh h]
    rfl

/-- The raw stream is made of the grid's bytes alone (44_chunk_writer_crc.md R241). -/
theorem packStream_congr {grid grid' : Buffer} {w h : Nat} (hread : ∀ a, a < 4 * w * h → grid'.read a = grid.read a) :
    packStream grid' w h = packStream grid w h := by
  refine List.flatMap_congr fun y hy => congrArg (0x00 :: ·) (Buffer.readBytes_congr _ _ _ _ fun k _ hk => hread k ?_)
  have hrow : y * stride w + stride w ≤ 4 * w * h := row_end_le (List.mem_range.1 hy)
  omega

theorem packBody_setGdst {s : State} {b : Buffer}
    (h : ∀ a, a < 4 * s.regs.dw.toNat * s.regs.dh.toNat → b.read a = s.gdst.read a) :
    packBody (s.setBuf .gdst b) = (packBody s).setBuf .gdst b := by
  have hstream : packStream (s.setBuf .gdst b).gdst s.regs.dw.toNat s.regs.dh.toNat =
    packStream s.gdst s.regs.dw.toNat s.regs.dh.toNat := packStream_congr h
  simp only [packBody, setBuf_cfg, setBuf_regs, hstream]
  split_ifs <;> rfl

theorem emittedBuffer_setZbuf {s : State} {b : Buffer} (h : ∀ a, a < s.regs.zlen.toNat → b.read a = s.zbuf.read a) :
    emittedBuffer (s.setBuf .zbuf b) = emittedBuffer s := by
  have hstream : (s.setBuf .zbuf b).stream = s.stream :=
    Buffer.readBytes_congr _ _ _ _ fun k _ hk => h k (by rwa [setBuf_regs, Nat.zero_add] at hk)
  rw [emittedBuffer, emittedBuffer, hstream, setBuf_regs]
  rfl

theorem emitBody_setZbuf {s : State} {b : Buffer} (h : ∀ a, a < s.regs.zlen.toNat → b.read a = s.zbuf.read a) :
    emitBody (s.setBuf .zbuf b) = (emitBody s).setBuf .zbuf b := by
  rcases Nat.lt_or_ge s.cfg.zbufCap.toNat s.regs.zlen.toNat with hlong | hzlen
  · rw [emitBody_streamBeyondCap hlong, emitBody_streamBeyondCap (s := s.setBuf .zbuf b) hlong]
    rfl
  rcases Nat.lt_or_ge s.cfg.fbufCap.toNat (57 + s.regs.zlen.toNat) with hlong | hfile
  · rw [emitBody_fileBeyondCap hzlen hlong, emitBody_fileBeyondCap (s := s.setBuf .zbuf b) hzlen hlong]
    rfl
  · rw [emitBody_fits ⟨hzlen, hfile⟩, emitBody_fits (s := s.setBuf .zbuf b) ⟨hzlen, hfile⟩, emittedBuffer_setZbuf h]
    rfl

theorem crcBody_setFbuf {s : State} {b : Buffer} (h : s.agreesBelowFlen b) :
    crcBody (s.setBuf .fbuf b) = (crcBody s).setBuf .fbuf b := by
  simp only [crcBody, setBuf_cfg, setBuf_regs]
  split
  · rfl
  split
  · rfl
  · rename_i hrange
    have hbytes : (s.setBuf .fbuf b).fbuf.readBytes s.regs.coff.toNat s.regs.clen.toNat =
        s.fbuf.readBytes s.regs.coff.toNat s.regs.clen.toNat :=
      Buffer.readBytes_congr _ _ _ _ fun k _ hk => h k (by omega)
    rw [hbytes]
    rfl

/-! ### Other free values -/

theorem Buffer.read_withSeed {b : Buffer} {a : Nat} (h : b.written a = true) (seed : Nat) :
    Buffer.read { b with seed := seed } a = b.read a := by
  obtain ⟨v, hv⟩ := Option.isSome_iff_exists.1 h
  simp [Buffer.read, hv]

/-- Other free values do not show where every byte has been written. -/
theorem writtenBelow_read_withSeed {b : Buffer} {n : Nat} (h : writtenBelow b n = true) (seed : Nat) (a : Nat) (ha : a < n) :
    Buffer.read { b with seed := seed } a = b.read a :=
  Buffer.read_withSeed (List.all_eq_true.1 h a (List.mem_range.2 ha)) seed

theorem acceptCommand_setBuf (s : State) (id : BufId) (b : Buffer) :
    acceptCommand (s.setBuf id b) = (acceptCommand s).setBuf id b := by
  cases id <;> rfl

theorem reseed_ready {s : State} (h : s.ready = true) (id : BufId) (seed : Nat) : (reseed id seed s).ready = true := by
  simpa [reseed, State.ready] using h

/-- A command does not write its input buffer (20_memory.md R66). -/
theorem onlyOutputsDiffer_inputBuffer {o : Origin} {s t : State} (h : onlyOutputsDiffer o s t) :
    t.buf (inputBuffer o) = s.buf (inputBuffer o) := by
  cases o with
  | parse => exact (onlyOutputsDiffer_parse_inputs h).1
  | recon => exact (onlyOutputsDiffer_recon_inputs h).1
  | resize => exact (congrArg State.gsrc h.1).trans rfl
  | pack => exact (congrArg State.gdst h.1).trans rfl
  | emit => exact (congrArg State.zbuf h.1).trans rfl
  | crc => exact (congrArg State.fbuf h.1).trans rfl
  | dispatcher => exact (congrArg State.fbuf h.1).trans rfl

/-- A command whose rule commutes with new free values of its input buffer answers with those same values. -/
theorem operation_reseed {o : Origin} {body : State → State} {s t : State} {seed : Nat} (hready : s.ready = true)
    (hframe : onlyOutputsDiffer o (acceptCommand s) (body (acceptCommand s)))
    (hbody : body ((acceptCommand s).setBuf (inputBuffer o) { s.buf (inputBuffer o) with seed := seed }) =
      (body (acceptCommand s)).setBuf (inputBuffer o) { s.buf (inputBuffer o) with seed := seed })
    (h : operation body s = .next t) :
    operation body (reseed (inputBuffer o) seed s) = .next (reseed (inputBuffer o) seed t) := by
  rw [operation_ready body hready] at h
  cases h
  have hinput : (body (acceptCommand s)).buf (inputBuffer o) = s.buf (inputBuffer o) :=
    (onlyOutputsDiffer_inputBuffer hframe).trans (by cases o <;> rfl)
  rw [operation_ready body (reseed_ready hready _ _), reseed, reseed, acceptCommand_setBuf, hbody, hinput]

/-- Settles O60: new free values do not show where the operands are in place, and each rule reads its input nowhere else. -/
theorem resultsDoNotDependOnUnwrittenBytes : Obligations.ResultsDoNotDependOnUnwrittenBytes := by
  intro s t i o seed hop hready hplace hexec
  rcases (mem_operations_iff i o).1 hop with
    ⟨rfl, rfl⟩ | ⟨rfl, rfl⟩ | ⟨rfl, rfl⟩ | ⟨rfl, rfl⟩ | ⟨rfl, rfl⟩ | ⟨rfl, rfl⟩
  · exact operation_reseed hready (parseBody_onlyOutputs _)
      (parseBody_setFbuf (s := acceptCommand s) (writtenBelow_read_withSeed hplace seed)) hexec
  · exact operation_reseed hready (reconBody_onlyOutputs _)
      (reconBody_setRbuf (s := acceptCommand s) (writtenBelow_read_withSeed hplace seed)) hexec
  · exact operation_reseed hready (resizeBody_onlyOutputs _)
      (resizeBody_setGsrc (s := acceptCommand s) (writtenBelow_read_withSeed hplace seed)) hexec
  · exact operation_reseed hready (packBody_onlyOutputs _)
      (packBody_setGdst (s := acceptCommand s) (writtenBelow_read_withSeed hplace seed)) hexec
  · exact operation_reseed hready (emitBody_onlyOutputs _)
      (emitBody_setZbuf (s := acceptCommand s) (writtenBelow_read_withSeed hplace seed)) hexec
  · exact operation_reseed hready (crcBody_onlyOutputs _)
      (crcBody_setFbuf (s := acceptCommand s) (writtenBelow_read_withSeed hplace seed)) hexec

end Sys2Proof.Machine
end
